-- ==== Sys2Proof/Word.lean ====
section
/-! DEFINITION. The plain types of the model: bytes, words, addresses and lines of memory. -/

namespace Sys2Proof

/-- A byte of memory (spec 11, "Offsets are in bytes"). -/
abbrev Byte := BitVec 8

/-- A 32-bit word: an argument word, a notice's subject or detail, an uptime second. -/
abbrev Word := BitVec 32

/-- A 32-bit byte address (spec 00, "Addresses and lines"). -/
abbrev Addr := BitVec 32

/-- The number of a 64-byte line. The port's form carries line addresses, so every request is
line-aligned (spec 01, section 1.1). -/
abbrev LineNo := BitVec 26

/-- The 64 data bytes of a line, byte 0 at the lowest address. -/
abbrev LineData := Vector Byte 64

/-- The 64 byte enables of a line that is written. -/
abbrev Enables := Vector Bool 64

/-- A requester tag, 0 to 63 (spec 02, section 2.2). -/
abbrev Tag := Fin 64

/-- A station index, 0 to 11 for the letters A to L (spec 00, "Stations and targets"). -/
abbrev StationIx := Fin 12

end Sys2Proof
end

