-- ==== Sys2Proof/Syntax.lean ====
section
/-! DEFINITION. The commands of the part: one constructor of Instr for each row of
spec/opcode_table.json, with the row's operands. -/

namespace Sys2Proof

/-- One line of a WRITE: 64 data bytes, each with its own enable (spec 01, section 1.1). -/
structure WriteLine where
  data : LineData
  en : Enables
deriving DecidableEq, Repr

/-- A WRITE request at the PSP: tag, first line, and 1 to 4 lines of data (spec 01, section 1.1). -/
structure WriteReq where
  tag : Tag
  first : LineNo
  lines : List WriteLine
deriving DecidableEq, Repr

/-- What memory answers to a write (spec 01, "The content-memory controller answers"). -/
inductive WriteAnswer where
  | done
  | error
deriving DecidableEq, Repr

/-- What memory answers to a read of one line. -/
inductive ReadAnswer where
  | data (d : LineData)
  | error
deriving DecidableEq, Repr

/-- An answer that memory gives after its request has timed out: to a write or to a read (R12). -/
inductive LateAnswer where
  | write (a : WriteAnswer)
  | read (a : ReadAnswer)
deriving DecidableEq, Repr

/-- The discrete input lines (spec 04, section 4.1). `fire n` is FIRE ZONE n + 1. -/
inductive InputLine where
  | bell
  | muster
  | maint
  | fire (n : Fin 8)
deriving DecidableEq, Repr

/-- The four levels of a strap pin (spec 10, section 10.1). -/
inductive StrapLevel where
  | zero
  | r
  | f
  | one
deriving DecidableEq, Repr

/-- A request that is outstanding at the MSP (R12): the PWQ head, the IWQ head, line `l` of read
tracker `t`, or line `l` of own-read tracker `k`. -/
inductive MspRef where
  | pwqHead
  | iwqHead
  | readLine (t : Fin 8) (l : Fin 4)
  | ownLine (k : Fin 2) (l : Fin 4)
deriving DecidableEq, Repr

/-- The commands. A command word's row carries the writer's tag, the sequence number it writes and
the command's argument words (log 4). A row for a written line carries the tag, the line's number in
its window, and the data and enables (log 3). -/
inductive Instr where
  | pspWrite (req : WriteReq)
  | headIndexWrite (tag : Tag) (head : BitVec 16) (enLow enHigh : Bool)
  | programmeLineWrite (tag : Tag) (line : Fin 128) (w : WriteLine)
  | segmentStatusWrite (tag : Tag) (line : Fin 4) (w : WriteLine)
  | cabinRecordWrite (tag : Tag) (line : Fin 256) (w : WriteLine)
  | pspRead (tag : Tag) (first : LineNo) (count : Nat)
  | arbiterGrant
  | pwqWriteAnswer (a : WriteAnswer)
  | readLineData (t : Fin 8) (l : Fin 4) (d : LineData)
  | readLineError (t : Fin 8) (l : Fin 4)
  | readAnswer (t : Fin 8)
  | ownReadLineAnswer (k : Fin 2) (l : Fin 4) (a : ReadAnswer)
  | iwqWriteAnswer (a : WriteAnswer)
  | memoryTimeout (r : MspRef)
  | lateAnswer (a : LateAnswer)
  | noticeWriterTurn
  | resultWordPlacement
  | drillStart (tag : Tag) (seq : Byte)
  | drillEnd (tag : Tag) (seq : Byte)
  | musterOrder (tag : Tag) (seq : Byte)
  | allClear (tag : Tag) (seq : Byte)
  | standdownEnd (tag : Tag) (seq : Byte)
  | stationClose (tag : Tag) (seq : Byte) (station : Word)
  | stationOpen (tag : Tag) (seq : Byte) (station : Word)
  | setAlternate (tag : Tag) (seq : Byte) (station alternate : Word)
  | publishPage (tag : Tag) (seq : Byte) (station language variant : Word)
  | openWindow (tag : Tag) (seq : Byte)
  | closeWindow (tag : Tag) (seq : Byte)
  | setClock (tag : Tag) (seq : Byte) (day second : Word)
  | scheduleShift (tag : Tag) (seq : Byte) (day minute shift : Word)
  | cancelShift (tag : Tag) (seq : Byte)
  | setDefaultTarget (tag : Tag) (seq : Byte) (screen target : Word)
  | rescan (tag : Tag) (seq : Byte) (table : Word)
  | setRing (tag : Tag) (seq : Byte)
  | unknownCommand (tag : Tag) (seq code : Byte)
  | rawLineChange (line : InputLine) (level : Bool)
  | deglitchExpiry (line : InputLine)
  | debounceExpiry (line : InputLine)
  | longBlast
  | gapTimerExpiry
  | standdownTimerExpiry
  | maintTimerExpiry
  | darkTimerExpiry (screen : Fin 24)
  | clockAdvance
  | uptimeSecond
  | routeComputationStart
  | reset
  | resetRelease (strap1 strap0 : StrapLevel)
  | romLoadEnd (rom : List Byte)
  | startUpEnd
deriving DecidableEq, Repr

end Sys2Proof
end

