-- ==== Sys2Proof/Decode.lean ====
section
/-! DEFINITION. The command that a word spells by the bits of spec/opcode_table.json. No row of the
table has bits (every row's "fields" is empty and none has "fixed"), so no word spells a command
(log 39). -/

namespace Sys2Proof

/-- The command that `nbits` bits `w` spell: none, since the table gives no row any bits. -/
def decodeTableWord (_nbits _w : Nat) : Option Instr := none

end Sys2Proof
end

