-- ==== Sys2Proof/Config.lean ====
section
/-! DEFINITION. What the part fixes (sizes and limits of the spec) and the free values: constants
without a body, for what the spec leaves open. -/

namespace Sys2Proof.Config

/-- Entries of the Posted Write Queue (R2, R3). -/
def pwqSize : Nat := 32

/-- Entries of the Internal Write Queue (R11). -/
def iwqSize : Nat := 16

/-- Notices the notice queue holds (R153). -/
def queueSize : Nat := 64

/-- Where 16-bit counters saturate (spec 00, "Counters"). -/
def counterMax : Nat := 65535

/-- Deglitch time in ms (R50). -/
def deglitchMs : Nat := 20

/-- Milliseconds from internal reset release before which start-up does not end (R52). -/
def startUpMs : Nat := 220

/-- Length in ms at which a high period is a long blast (R56). -/
def longBlastMs : Nat := 4000

/-- The gap timer's limit in ms (R57). -/
def gapMs : Nat := 3000

/-- Short blasts that a general alarm needs (R56). -/
def alarmCount : Nat := 7

/-- FREE VALUE (log 10). R68, R69 and R153 give no order between the notices that the Command unit,
the Screen unit and the Cabin unit hand at one change of muster state. The six orders are numbered. -/
opaque noticeOrder : Nat → Fin 6

/-- FREE VALUE (log 11). R138 and R139 do not state the eligible second where last refresh plus
refresh interval passes the greatest uptime second. -/
opaque eligibleBeyond : Word → Nat → Word

/-- FREE VALUE (log 12). The byte at this offset that a ROM device shorter than its record length
supplies (R161). -/
opaque romBeyond : Nat → Byte

end Sys2Proof.Config
end

