-- ==== Sys2Proof/Machine/Operands.lean ====
section
/-! DEFINITION. Fields of lines and records (little-endian, R167), merging by byte enables, and the
arithmetic of line addresses. -/

namespace Sys2Proof.Machine

/-- Byte `i` of a list of bytes, 0 beyond its end. -/
def listByte (l : List Byte) (i : Nat) : Byte := l.getD i 0

/-- Byte `i` of a vector of bytes, 0 beyond its end. -/
def vecByte {n : Nat} (v : Vector Byte n) (i : Nat) : Byte := (v[i]?).getD 0

/-- The 2-byte field at offset `o`, least significant byte at the lowest address (R167). -/
def field16 (byteAt : Nat → Byte) (o : Nat) : BitVec 16 := byteAt (o + 1) ++ byteAt o

/-- The 4-byte field at offset `o` (R167). -/
def field32 (byteAt : Nat → Byte) (o : Nat) : Word :=
  byteAt (o + 3) ++ byteAt (o + 2) ++ byteAt (o + 1) ++ byteAt o

/-- The bytes of a 2-byte field, lowest address first (R167). -/
def bytes16 (w : BitVec 16) : List Byte := [w.extractLsb' 0 8, w.extractLsb' 8 8]

/-- The bytes of a 4-byte field, lowest address first (R167). -/
def bytes32 (w : Word) : List Byte :=
  [w.extractLsb' 0 8, w.extractLsb' 8 8, w.extractLsb' 16 8, w.extractLsb' 24 8]

/-- The byte that stores a small code or count. -/
def byteOf (n : Nat) : Byte := BitVec.ofNat 8 n

/-- A flag as a byte, 0 or 1. -/
def flagByte (b : Bool) : Byte := if b then 1 else 0

/-- A line whose first bytes are `l` and whose other bytes are 0. -/
def lineOf (l : List Byte) : LineData := Vector.ofFn fun i => l.getD i.val 0

/-- A line that holds the bytes `l` from offset `o` on and 0 elsewhere. -/
def lineAt (o : Nat) (l : List Byte) : LineData :=
  Vector.ofFn fun i => if o ≤ i.val then l.getD (i.val - o) 0 else 0

/-- Enables of exactly the `n` bytes from offset `o` on (R168). -/
def enablesAt (o n : Nat) : Enables := Vector.ofFn fun i => decide (o ≤ i.val ∧ i.val < o + n)

/-- All 64 bytes enabled. -/
def enablesAll : Enables := Vector.replicate 64 true

/-- Whether a line has an enabled byte among the `n` bytes from offset `o` on. -/
def anyEnabled (en : Enables) (o n : Nat) : Bool :=
  (List.range n).any fun i => (en[o + i]?).getD false

/-- The `n` bytes of a block's copy after a delivered line: byte `i` takes the line's byte `o + i`
where that is enabled and is left as it was elsewhere (R20). -/
def mergeBytes {n : Nat} (copy : Vector Byte n) (o : Nat) (w : WriteLine) : Vector Byte n :=
  Vector.ofFn fun i =>
    if (w.en[o + i.val]?).getD false then vecByte w.data (o + i.val) else copy[i]

/-- The `n` bytes of a line from offset `o` on. -/
def sliceBytes {n : Nat} (d : LineData) (o : Nat) : Vector Byte n :=
  Vector.ofFn fun i => vecByte d (o + i.val)

/-- A line made of one pixel, 4 bytes, repeated sixteen times: a fill line (R5, R37). -/
def fillLine (pixel : Word) : LineData := Vector.ofFn fun i => pixel.extractLsb' (8 * (i.val % 4)) 8

/-- An address with its low six bits ignored (R16, R30, R32, R80, R93, R152). -/
def alignLine (a : Addr) : Addr := a &&& 0xFFFFFFC0#32

/-- The byte address of a line. -/
def lineAddr (n : LineNo) : Addr := n ++ 0#6

/-- The address of the `i`-th line after `a`. A line address that passes the top of the address
space wraps to 0 (R1). -/
def nthLine (a : Addr) (i : Nat) : Addr := a + BitVec.ofNat 32 (64 * i)

/-- The strap level's number: 0, R, F and 1 count as 0 to 3 (R160). -/
def strapNumber : StrapLevel → Nat
  | .zero => 0
  | .r => 1
  | .f => 2
  | .one => 3

/-- The strap index, 4 × (level of strap 1) + (level of strap 0) (R160). -/
def strapIndex (strap1 strap0 : StrapLevel) : Nat := 4 * strapNumber strap1 + strapNumber strap0

/-- The control block base that the strap index selects (R160). -/
def strapBase (index : Nat) : Addr := 0x3F000000#32 + BitVec.ofNat 32 (index * 0x00100000)

/-- Whether the top two bits of a signature byte are binary 10 (R161). -/
def signatureGood (b : Byte) : Bool := b.extractLsb' 6 2 == 2#2

/-- The ROM's byte at offset `i`. Beyond what the operand gives it is a free value (R161, log 12). -/
def romByte (rom : List Byte) (i : Nat) : Byte := if i < rom.length then listByte rom i else Config.romBeyond i

/-- The ROM's record length L, offsets 1 and 2 (R161). -/
def romLength (rom : List Byte) : Nat := (field16 (romByte rom) 1).toNat

end Sys2Proof.Machine
end

