-- ==== Sys2Proof/Machine/State.lean ====
section
/-! DEFINITION. Everything the spec gives the part as state, block by block, as plain data, with its
value at reset (the default of each field), and the outcomes a step can have. -/

namespace Sys2Proof.Machine

open Sys2Proof

/-! ## Start-up loader (spec 10) -/

/-- The loader's phases (spec 10, table of phases). -/
inductive Phase where
  | reset
  | latch
  | load
  | check
  | ready
  | degraded
deriving DecidableEq, Repr

/-- The reason of a start-up result (R163). -/
inductive StartReason where
  | none
  | signature
  | sum
  | format
deriving DecidableEq, Repr

/-- The start-up result (R163). -/
structure StartResult where
  /-- The outcome: set for DEGRADED, clear for READY. -/
  degraded : Bool := false
  reason : StartReason := .none
  clamped : Bool := false
  overlap : Bool := false
  skipped : Bool := false
  strapIndex : Nat := 0
deriving DecidableEq, Repr

/-- A single-range window: its base and its size in lines (R16). -/
structure Window where
  base : Addr
  lines : Nat
deriving DecidableEq, Repr

/-- An entry of the tag class table (R19). -/
inductive TagClass where
  | general
  | corridor
  | scanout (screen : Nat)
deriving DecidableEq, Repr

/-- Screen kinds (spec 03, section 3.1). -/
inductive ScreenKind where
  | wayfinding
  | programme
  | general
deriving DecidableEq, Repr

/-- Pane kinds (R31). -/
inductive PaneKind where
  | arrow
  | station
  | now
  | next
  | countdown
  | banner
deriving DecidableEq, Repr

/-- A pane: first column, width in lines, first row, height in rows (R31). -/
structure Pane where
  kind : PaneKind
  x : Nat
  w : Nat
  y : Nat
  h : Nat
deriving DecidableEq, Repr

/-- A screen record as CHECK leaves it, but for the default target (R30). -/
structure ScreenConf where
  kind : ScreenKind
  base : Addr
  stride : Nat
  rows : Nat
  fill : Word
  deck : Nat
  home : StationIx
  language : Nat
  deckMask : BitVec 20
  categoryMask : BitVec 8
  panes : List Pane
deriving DecidableEq, Repr

/-- An entry of the glyph table. Width 0 is absent (R32). -/
structure Glyph where
  base : Addr := 0
  width : Nat := 0
  height : Nat := 0
deriving DecidableEq, Repr

/-- An entry of the station table (spec 05, section 5.1). -/
structure Station where
  closed : Bool := false
  alternate : Option StationIx := none
deriving DecidableEq, Repr

/-- A present entry of the muster page table. `live` is set when slot 1 is live (R80). -/
structure Page where
  slot0 : Addr
  slot1 : Addr
  stride : Nat
  rows : Nat
  live : Bool
deriving DecidableEq, Repr

/-- Segment kinds (spec 06, section 6.1). -/
inductive SegmentKind where
  | corridor
  | openDeck
  | bulkheadPassage
  | stairUp
  | stairDown
  | lift
deriving DecidableEq, Repr

/-- A segment's software state (R87). -/
inductive SoftState where
  | opened
  | restricted
  | closed
deriving DecidableEq, Repr

/-- An entry of the segment map (R86). Zone 0 is none. -/
structure Segment where
  length : Nat
  kind : SegmentKind
  zone : Nat
  soft : SoftState := .opened
deriving DecidableEq, Repr

/-- The timing values (R163), in the units of the ROM record. -/
structure Timing where
  /-- Memory timeout in tenths of a millisecond. -/
  memoryTenths : Nat := 10
  maintMinutes : Nat := 30
  darkMs : Nat := 2000
  standdownMinutes : Nat := 15
  refreshSeconds : Nat := 30
deriving DecidableEq, Repr

/-- A notice ring: base, entry count, watermark (R154). -/
structure RingConf where
  base : Addr := 0
  count : Nat := 16
  watermark : Nat := 1
deriving DecidableEq, Repr

/-- What CHECK leaves for the blocks to take when start-up ends in READY (R163, R164). -/
structure Contents where
  protect : Option Window
  programme : Option Window
  segment : Option Window
  cabin : Option Window
  tags : Vector TagClass 64
  /-- Each present screen's record and default target. -/
  screens : List (ScreenConf × Nat)
  glyphs : Vector Glyph 64
  stations : Vector Station 12
  pages : List (Option Page)
  segments : List Segment
  tableBase : Option Addr
  cabinCount : Nat
  timing : Timing
  ring : RingConf
deriving DecidableEq, Repr

/-- The Start-up loader's state (spec 10). -/
structure Loader where
  phase : Phase := .reset
  /-- Milliseconds since internal reset released, held at 220 (R52). -/
  sinceRelease : Nat := 0
  strap1 : StrapLevel := .zero
  strap0 : StrapLevel := .zero
  /-- The staging copy: type and body of each staged record (R162). -/
  staging : List (Nat × List Byte) := []
  runningSum : BitVec 16 := 0
  storedSum : BitVec 16 := 0
  result : StartResult := {}
  /-- The staged contents brought into range by CHECK (R163). -/
  checked : Option Contents := none
deriving DecidableEq, Repr

/-! ## Time base, window decoder, ports -/

/-- The uptime count and the prescalers (R164, spec 00 "Time"). -/
structure TimeBase where
  /-- Tenths of the present millisecond that have passed, 0 to 9. -/
  tenth : Nat := 0
  uptime : Word := 0
  uptimePhase : Nat := 0
deriving DecidableEq, Repr

/-- The window set, the tag class table and the timing values in force (R16, R19, R163). -/
structure Decoder where
  /-- Base of the control block, none before start-up ends. -/
  control : Option Addr := none
  protect : Option Window := none
  programme : Option Window := none
  segment : Option Window := none
  cabin : Option Window := none
  tags : Vector TagClass 64 := Vector.replicate 64 .general
  timing : Timing := {}
deriving DecidableEq, Repr

/-- An answer at the PSP (R1). -/
inductive PspAnswer where
  | retry
  | accept
  | data (lines : List LineData)
  | error
deriving DecidableEq, Repr

/-- A request issued at the MSP: one line each (spec 01). -/
inductive MspRequest where
  | write (r : MspRef) (addr : Addr) (data : LineData) (en : Enables)
  | read (r : MspRef) (addr : Addr)
deriving DecidableEq, Repr

/-- The last answer given at the PSP and the last request issued at the MSP (log 15). -/
structure Ports where
  psp : Option PspAnswer := none
  msp : Option MspRequest := none
deriving DecidableEq, Repr

/-! ## The memory path (spec 01) -/

/-- An entry of the Posted Write Queue (spec 01, section 1.2). -/
structure PwqEntry where
  addr : Addr
  data : LineData
  en : Enables
  seq : Nat
deriving DecidableEq, Repr

/-- What an entry of the Internal Write Queue writes. -/
inductive IwqKind where
  | result
  | notice
  | tail
  | status (line : Fin 7)
deriving DecidableEq, Repr

/-- An entry of the Internal Write Queue (R11). -/
structure IwqEntry where
  kind : IwqKind
  addr : Addr
  data : LineData
  en : Enables
deriving DecidableEq, Repr

/-- A line's resolution (spec 01, section 1.3). -/
inductive Resolution where
  | pass
  | subst (source : Addr)
  | fill
deriving DecidableEq, Repr

/-- A line's state, with its barrier, its timer in tenths of a millisecond, or its data (spec 01,
section 1.3). A barrier is the sequence number of a PWQ entry with the line's resolved address. -/
inductive LineState where
  | held (barrier : Nat)
  | ready
  | issued (timer : Nat)
  | arrived (data : LineData)
  | failed
  | dropped
deriving DecidableEq, Repr

/-- A line of a PSP read: its own address, its resolution, its state. -/
structure ReadLine where
  addr : Addr
  res : Resolution
  st : LineState
deriving DecidableEq, Repr

/-- A busy read tracker (spec 01, section 1.3). -/
structure Tracker where
  tag : Tag
  seq : Nat
  lines : List ReadLine
  failed : Bool
deriving DecidableEq, Repr

/-- A line of an own read (R10). -/
structure OwnLine where
  addr : Addr
  st : LineState
deriving DecidableEq, Repr

/-- The four sources of the arbiter (R13). -/
inductive Source where
  | scanout
  | otherReads
  | pwqHead
  | own
deriving DecidableEq, Repr

/-- The memory path (spec 01). -/
structure Path where
  /-- The acceptance count that PWQ entries and reads draw their numbers from (R5). -/
  seq : Nat := 0
  pwq : List PwqEntry := []
  /-- The timer of the outstanding PWQ head, none while the head is not outstanding (R3, R12). -/
  pwqTimer : Option Nat := none
  iwq : List IwqEntry := []
  iwqTimer : Option Nat := none
  trackers : Vector (Option Tracker) 8 := Vector.replicate 8 none
  /-- Own-read trackers: 0 serves the Route engine, 1 the Command unit (R10). -/
  own : Vector (Option (List OwnLine)) 2 := Vector.replicate 2 none
  highCount : Nat := 0
  lastHigh : Option Source := none
  lastLow : Option Source := none
  /-- Whether the IWQ head goes before own-read lines at the next own grant (R13). -/
  iwqNext : Bool := true
  memFault : Nat := 0
deriving DecidableEq, Repr

/-! ## Input lines and the Muster controller (spec 04) -/

/-- The sampler of one input line (R50, R51). -/
structure Filter where
  raw : Bool := false
  deg : Bool := false
  degCount : Nat := 0
  deb : Bool := false
  debCount : Nat := 0
deriving DecidableEq, Repr

/-- The samplers of the eleven discrete lines (spec 04, section 4.1). -/
structure Lines where
  bell : Filter := {}
  muster : Filter := {}
  maint : Filter := {}
  fire : Vector Filter 8 := Vector.replicate 8 {}
deriving DecidableEq, Repr

/-- Muster states (R59). `undecided` stands from reset until start-up ends. -/
inductive MusterState where
  | undecided
  | normal
  | drill
  | muster
  | standdown
deriving DecidableEq, Repr

/-- The cause of the last entry into MUSTER (R59). -/
inductive MusterCause where
  | none
  | bell
  | line
  | command
deriving DecidableEq, Repr

/-- The origin of a change of muster state (R68). -/
inductive Origin where
  | bell
  | line
  | command
  | timer
deriving DecidableEq, Repr

/-- The bell recogniser's states (spec 04, section 4.2). -/
inductive BellState where
  | idle
  | counting
  | long
deriving DecidableEq, Repr

/-- The Muster controller but for the samplers (spec 04). Timers hold elapsed milliseconds; `none`
is stopped. What the recogniser holds before start-up ends is the model's choice: IDLE with the count at 0,
both timers stopped and the mark clear (R53, R71, log 13). -/
structure MusterUnit where
  state : MusterState := .undecided
  epoch : BitVec 16 := 0
  cause : MusterCause := .none
  repeats : Nat := 0
  standdown : Option Nat := none
  bell : BellState := .idle
  count : Nat := 0
  highTimer : Option Nat := none
  gapTimer : Option Nat := none
  gapExpired : Bool := false
  /-- The MUSTER_SHOWN line (R48). -/
  shown : Bool := false
deriving DecidableEq, Repr

/-! ## The Screen unit (spec 03) -/

/-- The form of content a screen shows (R39). -/
inductive Variant where
  | none
  | drill
  | muster
  | allclear
deriving DecidableEq, Repr

/-- A plan's override (R37, R39). `page` holds the page entry, the slot used, its base, the page
stride and the page rows. -/
inductive Override where
  | none
  | fill
  | page (entry : Nat) (slot : Bool) (base : Addr) (stride rows : Nat)
deriving DecidableEq, Repr

/-- A plan's entry for one pane (spec 03, section 3.3). -/
inductive PaneEntry where
  | inactive
  | glyph (g : Nat)
  | digits (tens units : Nat)
  | caption (base : Addr)
deriving DecidableEq, Repr

/-- A frame plan (spec 03, section 3.3). -/
structure Plan where
  variant : Variant
  epoch : BitVec 16
  override : Override
  entries : List PaneEntry
  faultMark : Bool
deriving DecidableEq, Repr

/-- Watch states (spec 03, section 3.5). -/
inductive Watch where
  | unknown
  | lit
  | dark
deriving DecidableEq, Repr

/-- A present screen: its record, and what the Screen unit keeps for it. -/
structure Screen where
  conf : ScreenConf
  defaultTarget : Nat
  watch : Watch := .unknown
  /-- The dark timer's elapsed milliseconds, none while stopped (R45, R46). -/
  dark : Option Nat := some 0
  plan : Option Plan := none
  covered : Bool := false
  srcFault : Nat := 0
deriving DecidableEq, Repr

/-- The Screen unit (spec 03). -/
structure ScreenUnit where
  screens : List Screen := []
  glyphs : Vector Glyph 64 := Vector.replicate 64 {}
  /-- The coverage report mark: set is ARMED (R49). -/
  mark : Bool := false
deriving DecidableEq, Repr

/-! ## The Station unit (spec 05) -/

/-- The station table with the effective stations kept beside it (R73, R74). -/
structure StationTable where
  entries : Vector Station 12
  effective : Vector (Option StationIx) 12
deriving DecidableEq, Repr

/-- The Station unit: the table (none while absent) and the 144 muster page entries (R72, R80). -/
structure StationUnit where
  table : Option StationTable := none
  pages : List (Option Page) := []
deriving DecidableEq, Repr

/-! ## The Route engine (spec 06) -/

/-- A screen's present target (R95). -/
inductive PresentTarget where
  | noTarget
  | none
  | at (t : Nat)
deriving DecidableEq, Repr

/-- A route result (R104). A NO_ROUTE for target NONE holds no target number. -/
inductive RouteResult where
  | none
  | selected (target candidate cost glyph : Nat)
  | noRoute (target : Option Nat)
  | fault (target : Nat)
deriving DecidableEq, Repr

/-- The computation in flight: the screen and the target of the fetch (spec 06, section 6.6). -/
structure Flight where
  screen : Nat
  target : Nat
deriving DecidableEq, Repr

/-- The Route engine (spec 06). `flight` none is IDLE. -/
structure RouteUnit where
  segments : List Segment := []
  zones : Vector Bool 8 := Vector.replicate 8 false
  badSeg : Nat := 0
  recFault : Nat := 0
  tableBase : Option Addr := none
  work : List Nat := []
  flight : Option Flight := none
  results : List RouteResult := []
deriving DecidableEq, Repr

/-! ## The Programme engine (spec 07) -/

/-- A pending shift (spec 07, section 7.2). -/
structure Shift where
  day : Nat
  minute : Nat
  minutes : Int
deriving DecidableEq, Repr

/-- A shadow entry's status (R115). -/
inductive EntryStatus where
  | empty
  | listed
  | rejected (field : Nat)
deriving DecidableEq, Repr

/-- A shadow entry: 32 bytes and a status (R115). -/
structure ShadowEntry where
  bytes : Vector Byte 32 := Vector.replicate 32 0
  status : EntryStatus := .empty
deriving DecidableEq, Repr

/-- An entry of the ordered programme list, with the fields its last evaluation read (R119). -/
structure ListEntry where
  index : Nat
  start : Nat
  finish : Nat
  category : Nat
  deck : Nat
  featured : Bool
  venue : Nat
  lead : Nat
deriving DecidableEq, Repr

/-- A selection record (R120). `featured` is none for a PROGRAMME screen. -/
structure Selection where
  now : Option Nat := none
  next : Option Nat := none
  countdown : Option Nat := none
  featured : Option Nat := none
deriving DecidableEq, Repr

/-- The Programme engine (spec 07). -/
structure ProgUnit where
  clockSet : Bool := false
  day : Nat := 0
  sec : Nat := 0
  phase : Nat := 0
  shift : Option Shift := none
  shadow : List ShadowEntry := []
  order : List ListEntry := []
  /-- One record a screen, none for a GENERAL screen (R120). -/
  sel : List (Option Selection) := []
  rejected : Nat := 0
deriving DecidableEq, Repr

/-! ## The Cabin unit (spec 08) -/

/-- A cabin's pending class (spec 08, section 8.1). -/
inductive PendClass where
  | none
  | routine
  | urgent
deriving DecidableEq, Repr

/-- An entry of the cabin state table (spec 08, section 8.1). `home` none is UNKNOWN. -/
structure Cabin where
  home : Option StationIx := none
  lastRefresh : Word := 0
  pend : PendClass := .none
  eligible : Word := 0
  notified : Bool := false
  lastWrite : Option Nat := none
deriving DecidableEq, Repr

/-- The Cabin unit: the table, and the pending set as an ordered list of cabin numbers (R142). -/
structure CabinUnit where
  cabins : List Cabin := []
  pend : List Nat := []
  badHome : Nat := 0
deriving DecidableEq, Repr

/-! ## The Command unit (spec 02, 07, 09) -/

/-- Command outcomes (spec 00, "Command outcomes"). -/
inductive CmdOutcome where
  | done
  | refusedState
  | refusedRange
  | refusedLine
  | refusedMaint
  | unknown
deriving DecidableEq, Repr

/-- A result as the owning rule decides it, before the OVERRUN flag is known (R148). -/
structure CmdResult where
  outcome : CmdOutcome
  shiftCancelled : Bool := false
  fault : Bool := false
  detail : Word := 0
deriving DecidableEq, Repr

/-- The last result as the status block shows it: sequence, outcome and flags (R149). -/
structure LastResult where
  seq : Byte := 0
  outcome : Byte := 0
  flags : Byte := 0
deriving DecidableEq, Repr

/-- The tables that RESCAN reads (R126). -/
inductive ScanTable where
  | programme
  | segments
  | cabins
deriving DecidableEq, Repr

/-- The rescan record (R127). Lines are counted from the window's first line. -/
structure Rescan where
  table : ScanTable
  nextLine : Nat
  rebuilt : Nat
  /-- First line of the read in flight. -/
  first : Nat
  /-- Number of lines of the read in flight. -/
  count : Nat
  /-- One mark a unit of the read in flight. -/
  touched : List Bool
deriving DecidableEq, Repr

/-- The Command unit (spec 02, 07, 09). -/
structure CmdUnit where
  /-- The copy of the command word (bytes 0 to 3) and the six argument words (R147). -/
  copy : Vector Byte 28 := Vector.replicate 28 0
  /-- The slot state: set is EXECUTING. -/
  executing : Bool := false
  overrunMark : Bool := false
  overruns : Nat := 0
  seqInHand : Byte := 0
  /-- A result that waits for an IWQ entry (R149). -/
  held : Option CmdResult := none
  last : LastResult := {}
  /-- The maintenance window: elapsed ms while OPEN, none while CLOSED (spec 02, section 2.5). -/
  maint : Option Nat := none
  noticeMark : Option Word := none
  violations : Nat := 0
  rescan : Option Rescan := none
deriving DecidableEq, Repr

/-! ## The Notice writer (spec 09) -/

/-- Notice kinds (spec 11, table of kind codes). -/
inductive NoticeKind where
  | memoryFault
  | protectViolation
  | maintWindow
  | sourceFault
  | screenLit
  | screenDark
  | coverageComplete
  | alarmHeard
  | musterState
  | stationChanged
  | routeNone
  | routeFault
  | clockShifted
  | entryRejected
  | cabinRefresh
deriving DecidableEq, Repr

/-- A notice as it stands in the queue, with the codes of its subject and detail (R153, spec 11). -/
structure Notice where
  kind : NoticeKind
  urgent : Bool
  subject : Word
  detail : Word
  epoch : BitVec 16
  stamp : Word
deriving DecidableEq, Repr

/-- The three turns of the Notice writer (R158). -/
inductive Turn where
  | notices
  | status
  | ringTail
deriving DecidableEq, Repr

/-- The Notice writer (spec 09). -/
structure NoticeUnit where
  queue : List Notice := []
  lost : Nat := 0
  ring : RingConf := {}
  head : Nat := 0
  tail : Nat := 0
  urgent : Option Nat := none
  /-- The IRQ line (R156). -/
  irq : Bool := false
  /-- The copy of the ring descriptor, offsets 0x40 to 0x49 (R155). -/
  desc : Vector Byte 10 := Vector.replicate 10 0
  badHead : Nat := 0
  dirty : Vector Bool 7 := Vector.replicate 7 false
  lastTurn : Turn := .ringTail
  /-- Status lines still to place in a turn that could not finish (R158). -/
  turnLines : List (Fin 7) := []
  tailDue : Bool := false
deriving DecidableEq, Repr

/-! ## The whole part -/

/-- The state of the part and the queue of commands that wait. -/
structure State where
  /-- Commands that wait, first in, first out (log 1). -/
  pending : List Instr := []
  /-- How many free orders have been drawn (log 10). -/
  free : Nat := 0
  port : Ports := {}
  loader : Loader := {}
  time : TimeBase := {}
  cfg : Decoder := {}
  path : Path := {}
  lines : Lines := {}
  muster : MusterUnit := {}
  screen : ScreenUnit := {}
  station : StationUnit := {}
  route : RouteUnit := {}
  prog : ProgUnit := {}
  cabin : CabinUnit := {}
  cmd : CmdUnit := {}
  notice : NoticeUnit := {}
deriving DecidableEq, Repr

/-- The part right after reset: the loader in RESET, every queue empty, every tracker free, no block
with contents (R15, R29, R43, R59, R71, R85, R107, R131, R146, R159, R166). Values the spec does not
state are named in log 13. -/
def State.reset : State := {}

/-- The part has no fault that stops it: every failure the spec describes is an effect on the state
(R4, R8, R10, R11, R44, R163). No meaning raises a fault, so there is no constructor (log 36). -/
inductive Fault where
deriving DecidableEq, Repr

/-- Why a command has no meaning. -/
inductive Refusal where
  /-- Raised by an arm of exec for a command that has no meaning yet. Safe: the model stops. No arm
  raises it now. -/
  | notModelled (mnemonic : String)
deriving DecidableEq, Repr

/-- The outcome of a command. -/
abbrev Out := Host.Outcome State Fault Refusal

end Sys2Proof.Machine
end

