-- ==== Sys2Proof/Machine/Ops.lean ====
section
/-! DEFINITION. The shared operations over the state: handing notices, placing own writes, barriers
and their release, own reads, the route work list, and the command result. -/

namespace Sys2Proof.Machine

open Sys2Proof

/-- A 16-bit saturating increment (spec 00, "Counters"). -/
def satInc (n : Nat) : Nat := min (n + 1) Config.counterMax

/-- Start-up has ended, in READY or in DEGRADED (spec 10). -/
def State.started (s : State) : Bool :=
  decide (s.loader.phase = .ready) || decide (s.loader.phase = .degraded)

/-- Start-up has ended in READY. -/
def State.isReady (s : State) : Bool := decide (s.loader.phase = .ready)

/-! ## Notices (R153) -/

/-- A notice of the given kind, class, subject and detail with the epoch and the uptime second that
stand (R153). -/
def State.mkNotice (s : State) (kind : NoticeKind) (urgent : Bool) (subject detail : Word) : Notice :=
  { kind, urgent, subject, detail, epoch := s.muster.epoch, stamp := s.time.uptime }

/-- The notice queue takes a notice: it joins the tail, displaces the oldest ROUTINE notice, or is
dropped (R153). -/
def NoticeUnit.push (u : NoticeUnit) (n : Notice) : NoticeUnit :=
  if u.queue.length < Config.queueSize then { u with queue := u.queue ++ [n] }
  else if n.urgent && u.queue.any (fun m => !m.urgent) then
    { u with queue := (u.queue.eraseP fun m => !m.urgent) ++ [n], lost := satInc u.lost }
  else { u with lost := satInc u.lost }

/-- Hand one notice to the Notice writer (R153). -/
def State.hand (s : State) (n : Notice) : State := { s with notice := s.notice.push n }

/-- Hand notices one after another (R153). -/
def State.handAll (s : State) (ns : List Notice) : State :=
  { s with notice := ns.foldl NoticeUnit.push s.notice }

/-! ## The Internal Write Queue (R11) -/

/-- Free entries of the IWQ (R11). -/
def Path.iwqFree (p : Path) : Nat := Config.iwqSize - p.iwq.length

/-- Place a write at the tail of the IWQ (R11). -/
def State.placeIwq (s : State) (e : IwqEntry) : State :=
  { s with path := { s.path with iwq := s.path.iwq ++ [e] } }

/-- A fault at memory raises the memory-fault counter (R4, R8, R10, R11). -/
def State.countMemFault (s : State) : State :=
  { s with path := { s.path with memFault := satInc s.path.memFault } }

/-! ## Hazard barriers (R6) -/

/-- The barrier of a line read at address `a`: the youngest PWQ entry that holds a write to it, by
its sequence number (R6). -/
def barrierFor (pwq : List PwqEntry) (a : Addr) : Option Nat :=
  ((pwq.filter fun e => decide (e.addr = a)).getLast?).map (·.seq)

/-- The state in which a line that is not fill starts: HELD behind its barrier, or READY (R5, R6). -/
def startState (pwq : List PwqEntry) (a : Addr) : LineState :=
  match barrierFor pwq a with
  | some b => .held b
  | none => .ready

/-- A line whose barrier is the entry `e` that leaves moves from HELD to READY (R6). -/
def releaseState (e : PwqEntry) (a : Addr) (st : LineState) : LineState :=
  match st with
  | .held b => if b = e.seq ∧ a = e.addr then .ready else .held b
  | other => other

/-- The address that a read line fetches: its own, or the substituted one (R6). -/
def ReadLine.source (l : ReadLine) : Addr :=
  match l.res with
  | .pass => l.addr
  | .subst a => a
  | .fill => l.addr

/-- A read line after the PWQ entry `e` has left (R6). -/
def ReadLine.release (e : PwqEntry) (l : ReadLine) : ReadLine :=
  { l with st := releaseState e l.source l.st }

/-- An own-read line after the PWQ entry `e` has left (R6, R10). -/
def OwnLine.release (e : PwqEntry) (l : OwnLine) : OwnLine :=
  { l with st := releaseState e l.addr l.st }

/-- A read tracker after the PWQ entry `e` has left. -/
def Tracker.release (e : PwqEntry) (t : Tracker) : Tracker :=
  { t with lines := t.lines.map (ReadLine.release e) }

/-- Every read line held behind the PWQ entry `e` is released at its departure (R4, R6). -/
def Path.releaseAll (p : Path) (e : PwqEntry) : Path :=
  { p with
    trackers := p.trackers.map (Option.map (Tracker.release e))
    own := p.own.map (Option.map (List.map (OwnLine.release e))) }

/-! ## Own reads (R10) -/

/-- The line of an own read at its start, with its barrier (R10). -/
def ownLineOf (pwq : List PwqEntry) (a : Addr) : OwnLine := { addr := a, st := startState pwq a }

/-- Start an own read of `count` consecutive lines from `a` in own-read tracker `k` (R10). -/
def State.startOwnRead (s : State) (k : Fin 2) (a : Addr) (count : Nat) : State :=
  { s with path := { s.path with
      own := s.path.own.set k (some ((List.range count).map fun i => ownLineOf s.path.pwq (nthLine a i))) } }

/-! ## Screens and the route work list (R97) -/

/-- Whether a screen has an ARROW pane (R95). -/
def Screen.hasArrow (sc : Screen) : Bool := sc.conf.panes.any fun p => decide (p.kind = .arrow)

/-- Change one screen of the screen table. -/
def State.modScreen (s : State) (i : Nat) (f : Screen → Screen) : State :=
  { s with screen := { s.screen with screens := s.screen.screens.modify i f } }

/-- The screens that have an ARROW pane, in screen order (R97). -/
def State.arrowScreens (s : State) : List Nat :=
  (List.range s.screen.screens.length).filter fun i =>
    match s.screen.screens[i]? with
    | some sc => sc.hasArrow
    | none => false

/-- Append a screen to the work list, unless it is on it (R97). -/
def appendWork (work : List Nat) (i : Nat) : List Nat := if i ∈ work then work else work ++ [i]

/-- Append screens one after another (R97). -/
def State.appendScreens (s : State) (l : List Nat) : State :=
  { s with route := { s.route with work := l.foldl appendWork s.route.work } }

/-- Append every screen that has an ARROW pane, in screen order (R97). -/
def State.appendArrows (s : State) : State := s.appendScreens s.arrowScreens

/-! ## Stations (R73, R74) -/

/-- The effective station of a station as the Station unit holds it, `none` for NONE (R74). -/
def State.effective (s : State) (h : StationIx) : Option StationIx :=
  match s.station.table with
  | some t => t.effective[h]
  | none => none

/-! ## Command results (R148, R149) -/

/-- The outcome codes of the result word (spec 11, "Command slot"). -/
def outcomeCode : CmdOutcome → Byte
  | .done => 1
  | .refusedState => 2
  | .refusedRange => 3
  | .refusedLine => 4
  | .refusedMaint => 5
  | .unknown => 6

/-- The flags of the result word, with OVERRUN if the overrun mark is set at the placement (R148). -/
def resultFlags (overrun : Bool) (r : CmdResult) : Byte :=
  (if overrun then 1 else 0) ||| (if r.shiftCancelled then 2 else 0) ||| (if r.fault then 4 else 0)

/-- The IWQ write of the result word: part of the command slot's line, the 8 bytes of the result word
enabled and no others (R149, R168). -/
def State.resultEntry (s : State) (r : CmdResult) : IwqEntry :=
  { kind := .result
    addr := s.cfg.control.getD 0
    data := lineAt 0x20
      ([s.cmd.seqInHand, outcomeCode r.outcome, resultFlags s.cmd.overrunMark r, 0] ++ bytes32 r.detail)
    en := enablesAt 0x20 8 }

/-- Place a result word in the IWQ: the slot becomes IDLE and the last result is handed to the Notice
writer (R149). -/
def State.placeResult (s : State) (r : CmdResult) : State :=
  { s with
    path := { s.path with iwq := s.path.iwq ++ [s.resultEntry r] }
    cmd := { s.cmd with
      executing := false
      held := none
      last := { seq := s.cmd.seqInHand, outcome := outcomeCode r.outcome
                flags := resultFlags s.cmd.overrunMark r } } }

/-- A command ends with a result: it is placed at once if the IWQ has a free entry, and held
otherwise (R148, R149). Of the two orders that R149 allows with the notices and status lines that the command
caused, the model takes the result first where there is room, within the command (log 50). -/
def State.endCommand (s : State) (r : CmdResult) : State :=
  if 0 < s.path.iwqFree then s.placeResult r
  else { s with cmd := { s.cmd with held := some r } }

/-- Argument word `i` of the command slot copy, unsigned (spec 11, "Command slot"). -/
def State.argWord (s : State) (i : Nat) : Word := field32 (vecByte s.cmd.copy) (4 + 4 * i)

/-- Argument word `i` as a number. -/
def State.arg (s : State) (i : Nat) : Nat := (s.argWord i).toNat

/-- The answer at the PSP (R1, R9). -/
def State.answerPsp (s : State) (a : PspAnswer) : State := { s with port := { s.port with psp := some a } }

/-- A request is issued at the MSP (R3, R12, R13). -/
def State.issueMsp (s : State) (r : MspRequest) : State := { s with port := { s.port with msp := some r } }

end Sys2Proof.Machine
end

