-- ==== Sys2Proof/Machine/Flags.lean ====
section
/-! DEFINITION. The flags and shown values that follow the state: the IRQ line, the coverage condition
and the MUSTER_SHOWN line, and the status block with its dirty marks. -/

namespace Sys2Proof.Machine

open Sys2Proof

/-! ## The ring and the IRQ line (R154, R156) -/

/-- How far slot `j` lies beyond the accepted head, mod the entry count (R155). -/
def NoticeUnit.ahead (u : NoticeUnit) (j : Nat) : Nat := (j + u.ring.count - u.head) % u.ring.count

/-- The unread count, (tail − accepted head) mod entry count (R154). -/
def NoticeUnit.unread (u : NoticeUnit) : Nat := u.ahead u.tail

/-- The IRQ line's condition: the unread count is at least the watermark, or there is an urgent slot
(R156). -/
def NoticeUnit.irqCondition (u : NoticeUnit) : Bool :=
  decide (u.ring.watermark ≤ u.unread) || u.urgent.isSome

/-- The IRQ line follows its condition (R156). -/
def NoticeUnit.evalIrq (u : NoticeUnit) : NoticeUnit := { u with irq := u.irqCondition }

/-! ## Coverage and MUSTER_SHOWN (R47 to R49) -/

/-- The variant of a muster state (R39). Before start-up ends nothing is shown and it is NONE. -/
def variantOf : MusterState → Variant
  | .undecided => .none
  | .normal => .none
  | .drill => .drill
  | .muster => .muster
  | .standdown => .allclear

/-- A screen is covered when it is LIT and its plan's variant is the present one (R47). -/
def Screen.isCovered (v : Variant) (sc : Screen) : Bool :=
  decide (sc.watch = .lit) &&
    match sc.plan with
    | some p => decide (p.variant = v)
    | none => false

/-- A screen whose covered flag is evaluated again (R47). -/
def Screen.evalCovered (v : Variant) (sc : Screen) : Screen := { sc with covered := sc.isCovered v }

/-- The condition "all LIT screens covered" (R47). -/
def ScreenUnit.allCovered (u : ScreenUnit) : Bool :=
  u.screens.all fun sc => decide (sc.watch ≠ .lit) || sc.covered

/-- The covered flag of one screen is evaluated again (R47). -/
def State.evalCoveredAt (s : State) (i : Nat) : State :=
  s.modScreen i (Screen.evalCovered (variantOf s.muster.state))

/-- A screen that is uncovered until its next frame start (R47, R69). -/
def Screen.uncover (sc : Screen) : Screen := { sc with covered := false }

/-- At a change of muster state every screen becomes uncovered until its next frame start (R47, R69). That
this holds too where its plan is of the variant that comes back is the model's reading (log 43). -/
def State.uncoverAll (s : State) : State :=
  { s with screen := { s.screen with screens := s.screen.screens.map Screen.uncover } }

/-- Whether COVERAGE_COMPLETE is due: the mark is ARMED, the state is DRILL or MUSTER, and all LIT
screens are covered (R49). -/
def State.reportDue (s : State) : Bool :=
  s.screen.mark && (decide (s.muster.state = .drill) || decide (s.muster.state = .muster)) &&
    s.screen.allCovered

/-- The detail of COVERAGE_COMPLETE: covered count in bytes 0 and 1, DARK count in bytes 2 and 3
(R49, spec 11). -/
def ScreenUnit.coverageDetail (u : ScreenUnit) : Word :=
  BitVec.ofNat 16 (u.screens.countP fun sc => decide (sc.watch = .dark)) ++
    BitVec.ofNat 16 (u.screens.countP fun sc => sc.covered)

/-- The COVERAGE_COMPLETE notice, if it is due (R49). -/
def State.coverageNotices (s : State) : List Notice :=
  if s.reportDue then [s.mkNotice .coverageComplete true 0 s.screen.coverageDetail] else []

/-- The report mark becomes CLEAR when the notice is handed (R49). -/
def State.clearReport (s : State) : State :=
  { s with screen := { s.screen with mark := s.screen.mark && !s.reportDue } }

/-- The MUSTER_SHOWN line: asserted while the state is MUSTER and all LIT screens are covered (R48). -/
def State.shownCondition (s : State) : Bool := decide (s.muster.state = .muster) && s.screen.allCovered

/-- The MUSTER_SHOWN line follows its condition (R48). -/
def State.driveShown (s : State) : State :=
  { s with muster := { s.muster with shown := s.shownCondition } }

/-- What follows an evaluation of coverage at one screen: the report and the line (R48, R49). -/
def State.coverageEvent (s : State) : State :=
  ((s.handAll s.coverageNotices).clearReport).driveShown

/-! ## The status block (R157, R169) -/

/-- Muster state codes (spec 11, "Command slot"). -/
def musterCode : MusterState → Nat
  | .undecided => 0
  | .normal => 0
  | .drill => 1
  | .muster => 2
  | .standdown => 3

/-- Cause codes (R169). -/
def causeCode : MusterCause → Nat
  | .none => 0
  | .bell => 1
  | .line => 2
  | .command => 3

/-- Start-up reason codes (R169). -/
def reasonCode : StartReason → Nat
  | .none => 0
  | .signature => 1
  | .sum => 2
  | .format => 3

/-- The start-up flags byte (R169). -/
def StartResult.flags (r : StartResult) : Byte :=
  (if r.clamped then 1 else 0) ||| (if r.overlap then 2 else 0) ||| (if r.skipped then 4 else 0)

/-- A station index or 255 for none or NONE (R169). -/
def stationByte : Option StationIx → Byte
  | some i => byteOf i.val
  | none => 255

/-- The pending shift's six bytes: present, day, minute, signed shift (R169). -/
def shiftBytes : Option Shift → List Byte
  | some h => [1, byteOf h.day] ++ bytes16 (BitVec.ofNat 16 h.minute) ++ bytes16 (BitVec.ofInt 16 h.minutes)
  | none => [0, 0, 0, 0, 0, 0]

/-- Line 0 of the status block (R169). -/
def State.statusHead (s : State) : List Byte :=
  [byteOf (musterCode s.muster.state), byteOf (causeCode s.muster.cause), flagByte s.cmd.maint.isSome,
    flagByte s.muster.standdown.isSome] ++
  bytes16 s.muster.epoch ++ bytes16 (BitVec.ofNat 16 s.muster.repeats) ++
  [flagByte s.prog.clockSet, byteOf s.prog.day] ++ bytes16 (BitVec.ofNat 16 (s.prog.sec / 60)) ++
  shiftBytes s.prog.shift ++
  bytes16 (BitVec.ofNat 16 s.notice.tail) ++ bytes16 (BitVec.ofNat 16 s.notice.head) ++
  [s.cmd.last.seq, s.cmd.last.outcome, s.cmd.last.flags] ++
  [flagByte s.loader.result.degraded, byteOf (reasonCode s.loader.result.reason), s.loader.result.flags,
    byteOf s.loader.result.strapIndex] ++
  [(if s.station.table.isSome then 1 else 0) ||| (if s.isReady then 2 else 0)]

/-- Line 1: the stations, every byte 255 while they are absent (R169). -/
def State.statusStations (s : State) : List Byte :=
  match s.station.table with
  | some t => (List.finRange 12).flatMap fun i =>
      [flagByte t.entries[i].closed, stationByte t.entries[i].alternate, stationByte t.effective[i]]
  | none => List.replicate 36 255

/-- Line 2: the counters (R169). -/
def State.statusCounters (s : State) : List Byte :=
  [s.path.memFault, s.cmd.violations, s.cmd.overruns, s.notice.lost, s.notice.badHead, s.route.badSeg,
    s.route.recFault, s.prog.rejected, s.cabin.badHome].flatMap fun c => bytes16 (BitVec.ofNat 16 c)

/-- Watch state codes (R169). -/
def watchCode : Watch → Byte
  | .unknown => 0
  | .lit => 1
  | .dark => 2

/-- The route result's six bytes in a screen entry: kind, target, candidate, glyph code, cost (R169). -/
def routeBytes : RouteResult → List Byte
  | .none => [0, 0, 0, 0, 0, 0]
  | .selected t k c g => [1, byteOf t, byteOf k, byteOf g] ++ bytes16 (BitVec.ofNat 16 c)
  | .noRoute (some t) => [2, byteOf t, 0, 0, 0, 0]
  | .noRoute none => [2, 255, 0, 0, 0, 0]
  | .fault t => [3, byteOf t, 0, 0, 0, 0]

/-- A screen entry, every byte 255 beyond the screen count (R169). -/
def State.screenEntry (s : State) (i : Nat) : List Byte :=
  match s.screen.screens[i]? with
  | some sc => [watchCode sc.watch, flagByte sc.covered] ++ routeBytes (s.route.results.getD i .none) ++
      bytes16 (BitVec.ofNat 16 sc.srcFault)
  | none => List.replicate 10 255

/-- The present bytes of a status line (R169). Bytes that carry no field are 0 (R168). -/
def State.statusLine (s : State) (i : Fin 7) : LineData :=
  lineOf (match i.val with
    | 0 => s.statusHead
    | 1 => s.statusStations
    | 2 => s.statusCounters
    | k + 3 => (List.range 6).flatMap fun j => s.screenEntry (6 * k + j))

/-- Whether an IWQ entry writes status line `i`. -/
def IwqEntry.isStatus (i : Fin 7) (e : IwqEntry) : Bool := decide (e.kind = .status i)

/-- The IWQ entries that are placed and not yet issued: all but an outstanding head (R11, R157). -/
def Path.unissued (p : Path) : List IwqEntry := if p.iwqTimer.isSome then p.iwq.tail else p.iwq

/-- Write the present bytes of status line `i` into an entry for it (R157). -/
def mergeEntry (i : Fin 7) (d : LineData) (e : IwqEntry) : IwqEntry :=
  if e.isStatus i then { e with data := d } else e

/-- Merge the present bytes of status line `i` into the entry that is placed and not yet issued (R157). -/
def Path.mergeStatus (p : Path) (i : Fin 7) (d : LineData) : Path :=
  if p.iwqTimer.isSome then { p with iwq := p.iwq.take 1 ++ p.iwq.tail.map (mergeEntry i d) }
  else { p with iwq := p.iwq.map (mergeEntry i d) }

/-- A field of status line `i` has changed: the change is merged into the line's placed entry, or the
line's dirty mark is set. `mark` is clear where the change sets no dirty mark (R157). -/
def State.showLine (mark : Bool) (d : LineData) (s : State) (i : Fin 7) : State :=
  if s.path.unissued.any (IwqEntry.isStatus i) then { s with path := s.path.mergeStatus i d }
  else if mark then { s with notice := { s.notice with dirty := s.notice.dirty.set i true } }
  else s

/-- The status lines that a command has changed. -/
def changedLines (before after : State) : List (Fin 7) :=
  (List.finRange 7).filter fun i => decide (before.statusLine i ≠ after.statusLine i)

/-- The status block follows a command that led from `before` to `after`: every line with a changed
field is merged or marked (R157, log 16). Before start-up ends there is no status block. -/
def settleWith (mark : Bool) (before after : State) : State :=
  if before.started && after.started then
    (changedLines before after).foldl (fun t i => State.showLine mark (after.statusLine i) t i) after
  else after

/-- The status block follows a command (R157). -/
def settle (before after : State) : State := settleWith true before after

/-- A command's next state, with the status block following its changes (R157). -/
def commit (before after : State) : Out := .next (settle before after)

end Sys2Proof.Machine
end

