-- ==== Sys2Proof/Machine/Cabins.lean ====
section
/-! DEFINITION. The Cabin unit: home stations, refresh causes, the pending set, observed refreshes, the
rewriting of corridor reads, and CABIN_REFRESH notices (spec 08). -/

namespace Sys2Proof.Machine

open Sys2Proof

/-! ## The pending set (R142) -/

/-- The rank of a class in the set's order: URGENT before ROUTINE (R142). -/
def classRank : PendClass → Nat
  | .urgent => 0
  | .routine => 1
  | .none => 2

/-- Whether cabin `i` stands before cabin `j` in the pending set: by eligible second, then URGENT
before ROUTINE, then by index (R142). -/
def pendBefore (cabins : List Cabin) (i j : Nat) : Bool :=
  match cabins[i]?, cabins[j]? with
  | some a, some b =>
    decide (a.eligible.toNat < b.eligible.toNat ∨ (a.eligible.toNat = b.eligible.toNat ∧
      (classRank a.pend < classRank b.pend ∨ (classRank a.pend = classRank b.pend ∧ i < j))))
  | _, _ => decide (i < j)

/-- Put cabin `i` into its place in an ordered set that does not hold it (R142). -/
def insertPend (cabins : List Cabin) (i : Nat) : List Nat → List Nat
  | [] => [i]
  | j :: rest => if pendBefore cabins i j then i :: j :: rest else j :: insertPend cabins i rest

/-- Replace cabin `i`'s entry, and give the cabin its place in the pending set afresh if its class is
not NONE, or take it out (R142). -/
def CabinUnit.place (u : CabinUnit) (i : Nat) (c : Cabin) : CabinUnit :=
  let cabins := u.cabins.set i c
  let others := u.pend.filter fun j => decide (j ≠ i)
  { u with cabins := cabins
           pend := if c.pend = .none then others else insertPend cabins i others }

/-! ## Causes (R139 to R141) -/

/-- The eligible second: last refresh plus refresh interval (R138, R139). Where the sum passes the
greatest uptime second the spec states no value and it is free (log 11). -/
def eligibleAfter (last : Word) (interval : Nat) : Word :=
  if last.toNat + interval < 4294967296 then BitVec.ofNat 32 (last.toNat + interval)
  else Config.eligibleBeyond last interval

/-- A ROUTINE cause (R139). -/
def CabinUnit.routineCause (u : CabinUnit) (interval i : Nat) : CabinUnit :=
  match u.cabins[i]? with
  | some c =>
    match c.pend with
    | .none => u.place i { c with pend := .routine, eligible := eligibleAfter c.lastRefresh interval }
    | .routine | .urgent => u
  | none => u

/-- An URGENT cause at uptime second `now` (R141). -/
def CabinUnit.urgentCause (u : CabinUnit) (now : Word) (i : Nat) : CabinUnit :=
  match u.cabins[i]? with
  | some c =>
    match c.pend with
    | .urgent => u
    | .none => u.place i { c with pend := .urgent, eligible := now }
    | .routine => u.place i { c with pend := .urgent, eligible := now, notified := false }
  | none => u

/-- URGENT causes of one event, in rising cabin index, for the cabins that `p` picks (R140). -/
def CabinUnit.urgentCauses (u : CabinUnit) (now : Word) (p : Cabin → Bool) : CabinUnit :=
  (List.range u.cabins.length).foldl
    (fun v i => match u.cabins[i]? with
      | some c => if p c then v.urgentCause now i else v
      | none => v) u

/-! ## Notices (R143, R144) -/

/-- Whether a cabin of the pending set is to be notified: eligible, and its notified flag clear (R143). -/
def Cabin.due (now : Word) (c : Cabin) : Bool :=
  decide (c.pend ≠ .none) && decide (c.eligible.toNat ≤ now.toNat) && !c.notified

/-- The CABIN_REFRESH notice of cabin `i`: class and detail are its pending class (R144). -/
def State.cabinNotice (s : State) (i : Nat) (c : Cabin) : Notice :=
  s.mkNotice .cabinRefresh (decide (c.pend = .urgent)) (BitVec.ofNat 32 i) (if c.pend = .urgent then 1 else 0)

/-- The notices of one moment, in set order (R143). -/
def State.dueNotices (s : State) : List Notice :=
  s.cabin.pend.filterMap fun i =>
    match s.cabin.cabins[i]? with
    | some c => if c.due s.time.uptime then some (s.cabinNotice i c) else none
    | none => none

/-- The notified flags after the notices of one moment (R143). -/
def State.markNotified (s : State) : State :=
  { s with cabin := { s.cabin with
      cabins := s.cabin.cabins.map fun c => if c.due s.time.uptime then { c with notified := true } else c } }

/-- The Cabin unit notifies: every eligible cabin of the set whose notified flag is clear (R143). -/
def State.notifyCabins (s : State) : State := (s.handAll s.dueNotices).markNotified

/-! ## Home stations (R133) -/

/-- The station a cabin's panel is to show: the effective station of its home station, or 15 when that
is NONE or the home station is UNKNOWN (R137). -/
def State.shownStation (s : State) (home : Option StationIx) : Nat :=
  match home with
  | some h =>
    match s.effective h with
    | some e => e.val
    | none => 15
  | none => 15

/-- Outside NORMAL: DRILL, MUSTER or STANDDOWN (R133, R137). -/
def outsideNormal : MusterState → Bool
  | .drill | .muster | .standdown => true
  | .normal | .undecided => false

/-- A home station value is taken for cabin `i`, or counted as bad; outside NORMAL a change of the
shown station gives the cabin an URGENT cause (R133). -/
def State.takeHome (s : State) (i : Nat) (value : Byte) : State :=
  match s.cabin.cabins[i]? with
  | some c =>
    if h : value.toNat < 12 then
      let home : Option StationIx := some ⟨value.toNat, h⟩
      let u : CabinUnit := { s.cabin with cabins := s.cabin.cabins.set i { c with home := home } }
      if outsideNormal s.muster.state && decide (s.shownStation c.home ≠ s.shownStation home) then
        { s with cabin := u.urgentCause s.time.uptime i }
      else { s with cabin := u }
    else { s with cabin := { s.cabin with badHome := satInc s.cabin.badHome } }
  | none => s

/-! ## Observed writes (R134) -/

/-- One record of a delivered cabin line has been written: its home station is taken if its byte is
enabled, its last write is recorded, and it receives a ROUTINE cause (R134). -/
def State.cabinWritten (s : State) (i o : Nat) (w : WriteLine) (seq : Nat) : State :=
  let s1 := if anyEnabled w.en (o + 1) 1 then s.takeHome i (vecByte w.data (o + 1)) else s
  let u : CabinUnit := { s1.cabin with
    cabins := s1.cabin.cabins.modify i fun c => { c with lastWrite := some seq } }
  { s1 with cabin := u.routineCause s.cfg.timing.refreshSeconds i }

/-- A record of a delivered cabin line: written if at least one of its 32 bytes is enabled and its
index is below the cabin count (R134). -/
def State.cabinRecord (s : State) (i o : Nat) (w : WriteLine) (seq : Nat) : State :=
  if i < s.cabin.cabins.length ∧ anyEnabled w.en o 32 = true then s.cabinWritten i o w seq else s

/-- Line `k` of the cabin table is delivered: both records are taken, and the Cabin unit notifies once
(R134, R143). -/
def State.deliverCabin (s : State) (k : Nat) (w : WriteLine) (seq : Nat) : State :=
  ((s.cabinRecord (2 * k) 0 w seq).cabinRecord (2 * k + 1) 32 w seq).notifyCabins

/-! ## Rewriting and observed refresh (R135 to R138) -/

/-- The banner code of a muster state (R137). -/
def bannerCode : MusterState → Byte
  | .drill => 1
  | .muster => 2
  | .standdown => 3
  | .normal | .undecided => 0

/-- The record at offset `o` rewritten: both flags cleared, banner code and shown station replaced,
every other byte and bit as memory returned it (R137). -/
def rewriteRecord (d : LineData) (o : Nat) (banner shown : Byte) : LineData :=
  Vector.ofFn fun j =>
    if j.val = o then d[j] &&& 0xFC
    else if j.val = o + 2 then banner
    else if j.val = o + 3 then shown
    else d[j]

/-- Rewrite the record of cabin `i` at offset `o`, by the muster state that stands (R135 to R137). -/
def State.rewriteCabin (s : State) (i o : Nat) (d : LineData) : LineData :=
  match s.cabin.cabins[i]? with
  | some c =>
    if outsideNormal s.muster.state then
      rewriteRecord d o (bannerCode s.muster.state) (byteOf (s.shownStation c.home))
    else d
  | none => d

/-- Both records of line `k` of the cabin window as the corridor engine receives them (R135). -/
def State.rewriteCabinLine (s : State) (k : Nat) (d : LineData) : LineData :=
  s.rewriteCabin (2 * k + 1) 32 (s.rewriteCabin (2 * k) 0 d)

/-- Whether the refresh by a read of acceptance sequence `seq` is complete: no write to the record was
accepted after the read (R138). -/
def Cabin.completeFor (c : Cabin) (seq : Nat) : Bool :=
  match c.lastWrite with
  | none => true
  | some w => decide (w < seq)

/-- Cabin `i`, with entry `c`, is refreshed by a read of acceptance sequence `seq`, completely or not (R138,
R143). -/
def State.refreshCabin (s : State) (i seq : Nat) (c : Cabin) : State :=
  let now := s.time.uptime
  if c.completeFor seq then
    { s with cabin := s.cabin.place i { c with lastRefresh := now, pend := .none, notified := false } }
  else
    let waiting : Cabin :=
      { c with lastRefresh := now, pend := .routine, notified := false
               eligible := eligibleAfter now s.cfg.timing.refreshSeconds }
    State.notifyCabins { s with cabin := s.cabin.place i waiting }

/-- The observed refresh of cabin `i` by a read of acceptance sequence `seq` (R138). It acts on the entry that
any earlier event has left: an URGENT cause of a change of muster state or of a station recomputation that was
taken first is cleared by a complete refresh, whatever the instant (R145, log 44). -/
def State.observeRefresh (s : State) (i seq : Nat) : State :=
  match s.cabin.cabins[i]? with
  | some c => s.refreshCabin i seq c
  | none => s

/-- Both records of line `k` have their observed refresh taken (R135, R138). -/
def State.observeLine (s : State) (k seq : Nat) : State :=
  (s.observeRefresh (2 * k) seq).observeRefresh (2 * k + 1) seq

end Sys2Proof.Machine
end

