-- ==== Sys2Proof/Machine/Screens.lean ====
section
/-! DEFINITION. The Screen unit: the present target of a screen, frame plans and their latching, the
resolution of scan-out lines, the screen watch and substitution faults (spec 03). -/

namespace Sys2Proof.Machine

open Sys2Proof

/-! ## Present target (R95) -/

/-- The featured target of screen `i` as the Programme engine holds it (R120). -/
def State.featuredOf (s : State) (i : Nat) : Option Nat :=
  match s.prog.sel[i]? with
  | some (some r) => r.featured
  | _ => none

/-- The present target of screen `i` with record `sc`, by the muster state that stands (R95). -/
def State.presentTarget (s : State) (i : Nat) (sc : Screen) : PresentTarget :=
  match s.muster.state with
  | .normal =>
    match sc.conf.kind, s.featuredOf i with
    | .wayfinding, some t => .at t
    | _, _ => .noTarget
  | .drill | .muster =>
    match s.effective sc.conf.home with
    | some e => .at e.val
    | none => .none
  | .standdown | .undecided => .noTarget

/-! ## Frame plans (R38 to R42) -/

/-- The index of a variant in the muster page table (R80). -/
def variantIndex : Variant → Nat
  | .none => 0
  | .drill => 0
  | .muster => 1
  | .allclear => 2

/-- The number of a muster page entry: station × 12 + language × 3 + variant index (R80). -/
def pageNumber (station language variant : Nat) : Nat := station * 12 + language * 3 + variant

/-- Address of the live slot of a page (R23, R39). -/
def Page.liveAddr (p : Page) : Addr := if p.live then p.slot1 else p.slot0

/-- The override of a plan (R39). -/
def State.planOverride (s : State) (v : Variant) (sc : Screen) : Override :=
  match v with
  | .none => .none
  | _ =>
    let station := (s.effective sc.conf.home).getD sc.conf.home
    let n := pageNumber station.val sc.conf.language (variantIndex v)
    match s.station.pages[n]? with
    | some (some p) => .page n p.live p.liveAddr p.stride p.rows
    | _ => .fill

/-- Whether a route result is SELECTED for the present target; if so, its glyph code (R40). -/
def selectedGlyph (r : RouteResult) (t : PresentTarget) : Option Nat :=
  match r, t with
  | .selected target _ _ g, .at p => if target = p then some g else none
  | _, _ => none

/-- An ARROW pane's entry (R40). -/
def State.arrowEntry (s : State) (v : Variant) (i : Nat) (sc : Screen) : PaneEntry :=
  let r := s.route.results.getD i .none
  match v with
  | .none =>
    match sc.conf.kind, selectedGlyph r (s.presentTarget i sc) with
    | .wayfinding, some g => .glyph g
    | _, _ => .inactive
  | .drill | .muster =>
    match r, selectedGlyph r (s.presentTarget i sc) with
    | .none, _ => .inactive
    | _, some g => .glyph g
    | _, none => .glyph 10
  | .allclear => .inactive

/-- A STATION pane's entry: the letter of the effective station, or follow-crew (R41). -/
def State.stationEntry (s : State) (v : Variant) (sc : Screen) : PaneEntry :=
  match v with
  | .drill | .muster =>
    match s.effective sc.conf.home with
    | some e => .glyph (16 + e.val)
    | none => .glyph 10
  | _ => .inactive

/-- A BANNER pane's entry (R41). -/
def bannerEntry : Variant → PaneEntry
  | .none => .inactive
  | .drill => .glyph 48
  | .muster => .glyph 49
  | .allclear => .glyph 50

/-- The caption address at offset `o` of a programme entry's shadow bytes, as a line address (R42,
R125, log 21). -/
def State.captionOf (s : State) (entry o : Nat) : Addr :=
  match s.prog.shadow[entry]? with
  | some e => alignLine (field32 (vecByte e.bytes) o)
  | none => 0

/-- A caption pane's entry for a selected programme entry, if any (R42). -/
def State.captionEntry (s : State) (v : Variant) (selected : Option Nat) (o : Nat) : PaneEntry :=
  match v, selected with
  | .none, some e => if s.captionOf e o = 0 then .inactive else .caption (s.captionOf e o)
  | _, _ => .inactive

/-- A COUNTDOWN pane's entry: two digits from 1 to 99, and over-99 above (R42). -/
def countdownEntry (v : Variant) (sel : Selection) : PaneEntry :=
  match v, sel.next, sel.countdown with
  | .none, some _, some c => if c ≤ 99 then .digits (32 + c / 10) (32 + c % 10) else .digits 42 42
  | _, _, _ => .inactive

/-- The selection record of screen `i`; a GENERAL screen has none and selects nothing (R42, R120). -/
def State.selectionOf (s : State) (i : Nat) : Selection :=
  match s.prog.sel[i]? with
  | some (some r) => r
  | _ => {}

/-- The entry of one pane of screen `i` at a latch (R40 to R42). -/
def State.paneEntry (s : State) (v : Variant) (i : Nat) (sc : Screen) (p : Pane) : PaneEntry :=
  match p.kind with
  | .arrow => s.arrowEntry v i sc
  | .station => s.stationEntry v sc
  | .banner => bannerEntry v
  | .now => s.captionEntry v (s.selectionOf i).now 16
  | .next => s.captionEntry v (s.selectionOf i).next 20
  | .countdown => countdownEntry v (s.selectionOf i)

/-- The plan that a frame start of screen `i` latches from the state that stands (R38 to R42). -/
def State.latchPlan (s : State) (i : Nat) (sc : Screen) : Plan :=
  let v := variantOf s.muster.state
  { variant := v
    epoch := s.muster.epoch
    override := s.planOverride v sc
    entries := sc.conf.panes.map fun p => s.paneEntry v i sc p
    faultMark := false }

/-! ## Frame start (R38, R45, R47 to R49) -/

/-- A screen number as a notice's subject. -/
def screenWord (i : Nat) : Word := BitVec.ofNat 32 i

/-- A frame start of screen `i`: a new plan is latched, the dark timer restarts and the screen is LIT,
with a SCREEN_LIT notice if it was DARK; then coverage follows (R38, R45, R47, log 27). -/
def State.frameStart (s : State) (i : Nat) (sc : Screen) : State :=
  let s1 := s.modScreen i fun c => { c with plan := some (s.latchPlan i sc), watch := .lit, dark := some 0 }
  let s2 := s1.handAll
    (if sc.watch = .dark then [s1.mkNotice .screenLit false (screenWord i) 0] else [])
  (s2.evalCoveredAt i).coverageEvent

/-! ## Resolving a scan-out line (R33 to R37) -/

/-- A substituted line at row `r`, column `c` of an image that is `width` lines wide (R34, R36). -/
def imageSource (base : Addr) (width r c : Nat) : Addr := base + BitVec.ofNat 32 ((r * width + c) * 64)

/-- Row `r`, column `c` of glyph `g` of the table: substituted inside the glyph, fill outside (R34). -/
def glyphLine (glyphs : Vector Glyph 64) (g r c : Nat) : Resolution :=
  match glyphs[g]? with
  | some gl =>
    -- A glyph entry of width 0 is absent: width 0 and height 0 (R32).
    if gl.width ≠ 0 ∧ r < gl.height ∧ c < gl.width then .subst (imageSource gl.base gl.width r c) else .fill
  | none => .fill

/-- Whether a pane contains the line at a row and column (R34). -/
def Pane.contains (p : Pane) (row col : Nat) : Bool :=
  decide (p.y ≤ row) && decide (row < p.y + p.h) && decide (p.x ≤ col) && decide (col < p.x + p.w)

/-- The first pane in list order that contains the line and is active, with its entry (R34). -/
def findPane (panes : List Pane) (entries : List PaneEntry) (row col : Nat) : Option (Pane × PaneEntry) :=
  (panes.zip entries).find? fun q => q.1.contains row col && decide (q.2 ≠ .inactive)

/-- The line at a row and column of an active pane (R34 to R36). -/
def paneLine (glyphs : Vector Glyph 64) (p : Pane) (e : PaneEntry) (row col : Nat) : Resolution :=
  let r := row - p.y
  let c := col - p.x
  match e with
  | .inactive => .pass
  | .glyph g => glyphLine glyphs g r c
  | .digits tens units =>
    if c < p.w / 2 then glyphLine glyphs tens r c else glyphLine glyphs units r (c - p.w / 2)
  | .caption base => .subst (imageSource base p.w r c)

/-- A line that no active pane contains, by the plan's override (R37). -/
def overrideLine (o : Override) (row col : Nat) : Resolution :=
  match o with
  | .none => .pass
  | .fill => .fill
  | .page _ _ base stride rows =>
    if row < rows ∧ col < stride / 64 then .subst (base + BitVec.ofNat 32 (row * stride + col * 64)) else .fill

/-- A line at a row and column of a screen, by its plan (R34 to R37). -/
def planLine (glyphs : Vector Glyph 64) (panes : List Pane) (plan : Plan) (row col : Nat) : Resolution :=
  match findPane panes plan.entries row col with
  | some (p, e) => paneLine glyphs p e row col
  | none => overrideLine plan.override row col

/-- The offset of an address in a screen's frame region, none where it is OUT_OF_FRAME (R17, R33). A region
that would pass the top of the address space ends at its last line, since no address lies above (R16). -/
def ScreenConf.offset (c : ScreenConf) (a : Addr) : Option Nat :=
  if c.base.toNat ≤ a.toNat ∧ a.toNat - c.base.toNat < c.rows * c.stride then some (a.toNat - c.base.toNat)
  else none

/-- The resolution of an IN_FRAME line of screen `i` with its current plan (R33). -/
def State.resolveIn (s : State) (i offset : Nat) : Resolution :=
  match s.screen.screens[i]? with
  | some sc =>
    match sc.plan with
    | some plan =>
      planLine s.screen.glyphs sc.conf.panes plan (offset / sc.conf.stride) (offset % sc.conf.stride / 64)
    | none => .pass
  | none => .pass

/-- The screen that a tag is bound to, for a tag of class SCANOUT (R19). -/
def State.boundScreen (s : State) (tag : Tag) : Option Nat :=
  match s.cfg.tags[tag] with
  | .scanout i => some i
  | _ => none

/-- Resolve one line of a read at its acceptance: a frame start latches a plan first; a line of a tag
that is not SCANOUT, OUT_OF_FRAME, or of a screen without a plan passes through (R5, R33, R38). -/
def State.resolveLine (s : State) (tag : Tag) (a : Addr) : State × Resolution :=
  match s.boundScreen tag with
  | some i =>
    match s.screen.screens[i]? with
    | some sc =>
      match sc.conf.offset a with
      | some offset =>
        let s1 := if offset = 0 then s.frameStart i sc else s
        (s1, s1.resolveIn i offset)
      | none => (s, .pass)
    | none => (s, .pass)
  | none => (s, .pass)

/-- The fill pixel of the screen a tag is bound to (R5, R8). -/
def State.fillOf (s : State) (tag : Tag) : LineData :=
  match s.boundScreen tag with
  | some i =>
    match s.screen.screens[i]? with
    | some sc => fillLine sc.conf.fill
    | none => fillLine 0
  | none => fillLine 0

/-! ## Substitution faults (R44) -/

/-- The SOURCE_FAULT notice for screen `i`, if its current plan has its fault mark clear (R44). -/
def State.sourceFaultNotices (s : State) (i : Nat) (sc : Screen) (source : Addr) : List Notice :=
  match sc.plan with
  | some p =>
    if p.faultMark then []
    else [{ s.mkNotice .sourceFault false (screenWord i) source with epoch := p.epoch }]
  | none => []

/-- A failed substituted line is counted and reported for the screen that the tag is bound to (R44). -/
def State.sourceFault (s : State) (tag : Tag) (source : Addr) : State :=
  match s.boundScreen tag with
  | some i =>
    match s.screen.screens[i]? with
    | some sc =>
      (s.handAll (s.sourceFaultNotices i sc source)).modScreen i fun c =>
        { c with srcFault := satInc c.srcFault
                 plan := c.plan.map fun p => { p with faultMark := true } }
    | none => s
  | none => s

/-! ## The dark timer (R46) -/

/-- Class URGENT outside NORMAL (R46). -/
def darkUrgent : MusterState → Bool
  | .drill | .muster | .standdown => true
  | .normal | .undecided => false

/-- The dark timer of screen `i` reaches the dark time: the screen becomes DARK with a SCREEN_DARK
notice, its timer stops, and coverage follows (R46, R47). SCREEN_DARK before COVERAGE_COMPLETE is the
model's order (log 27). -/
def State.darkExpiry (s : State) (i : Nat) : State :=
  match s.screen.screens[i]? with
  | some sc =>
    match sc.dark with
    | some t =>
      if s.cfg.timing.darkMs ≤ t then
        let s1 := s.modScreen i fun c => { c with watch := .dark, dark := none }
        let s2 := s1.hand (s1.mkNotice .screenDark (darkUrgent s.muster.state) (screenWord i) 0)
        (s2.evalCoveredAt i).coverageEvent
      else s
    | none => s
  | none => s

end Sys2Proof.Machine
end

