-- ==== Sys2Proof/Machine/Windows.lean ====
section
/-! DEFINITION. The window decoder's classes, the protection check, and the maintenance window
(spec 02). -/

namespace Sys2Proof.Machine

open Sys2Proof

/-! ## Classes (R16, R17) -/

/-- The class of a line (R17). -/
inductive LineClass where
  | control
  | protect
  | programme
  | segment
  | cabin
  | plain
deriving DecidableEq, Repr

/-- A window covers the lines from its base up to its base plus its size, less one line (R16). -/
def Window.covers (w : Window) (a : Addr) : Bool :=
  decide (w.base.toNat ≤ a.toNat) && decide ((a.toNat - w.base.toNat) / 64 < w.lines)

/-- The number of a line within a window, from 0. -/
def Window.lineIndex (w : Window) (a : Addr) : Nat := (a.toNat - w.base.toNat) / 64

/-- An absent or disabled window matches no line (R16). -/
def coveredBy (w : Option Window) (a : Addr) : Bool :=
  match w with
  | some v => v.covers a
  | none => false

/-- The control block's window: 64 lines at the strapped base (R16). -/
def Decoder.controlWindow (c : Decoder) : Option Window := c.control.map fun b => { base := b, lines := 64 }

/-- The class of a line: that of the first window that covers it (R17). -/
def Decoder.classOf (c : Decoder) (a : Addr) : LineClass :=
  if coveredBy c.controlWindow a then .control
  else if coveredBy c.protect a then .protect
  else if coveredBy c.programme a then .programme
  else if coveredBy c.segment a then .segment
  else if coveredBy c.cabin a then .cabin
  else .plain

/-! ## The protection check (R22 to R24) -/

/-- Why a write is dropped (R22). -/
inductive DropReason where
  | closed
  | livePage
deriving DecidableEq, Repr

/-- The detail code of a drop's reason (spec 11). -/
def dropCode : DropReason → Word
  | .closed => 0
  | .livePage => 1

/-- Whether a line lies in a page's live extent: page rows × page stride bytes from the live slot (R23). -/
def Page.liveCovers (p : Page) (a : Addr) : Bool :=
  decide (p.liveAddr.toNat ≤ a.toNat) && decide (a.toNat - p.liveAddr.toNat < p.rows * p.stride)

/-- Whether a line lies in any live extent (R23). -/
def State.inLiveExtent (s : State) (a : Addr) : Bool :=
  s.station.pages.any fun p =>
    match p with
    | some q => q.liveCovers a
    | none => false

/-- The protection check: none if the write passes or is not checked, else the reason it is dropped
with the notice's subject (R22, R24). -/
def State.protectionCheck (s : State) (addrs : List Addr) : Option (DropReason × Addr) :=
  match addrs.find? fun a => decide (s.cfg.classOf a = .protect) with
  | none => none
  | some first =>
    match s.cmd.maint with
    | none => some (.closed, first)
    | some _ => (addrs.find? s.inLiveExtent).map fun a => (.livePage, a)

/-- A dropped write is counted, and reported at most once an uptime second (R24). -/
def State.countDrop (s : State) (reason : DropReason) (subject : Addr) : State :=
  let s1 : State := { s with cmd := { s.cmd with violations := satInc s.cmd.violations } }
  if s.cmd.noticeMark = some s.time.uptime then s1
  else
    let s2 : State := { s1 with cmd := { s1.cmd with noticeMark := some s.time.uptime } }
    s2.hand (s2.mkNotice .protectViolation false subject (dropCode reason))

/-! ## The maintenance window (R25 to R28) -/

/-- The causes of a closure (R26, R27). -/
inductive ClosureCause where
  | command
  | line
  | muster
  | timer
deriving DecidableEq, Repr

/-- Detail codes of MAINT_WINDOW (spec 11). -/
def closureCode : ClosureCause → Word
  | .command => 0
  | .line => 1
  | .muster => 2
  | .timer => 3

/-- The maintenance time in ms (spec 02, section 2.5). -/
def State.maintLimit (s : State) : Nat := s.cfg.timing.maintMinutes * 60000

/-- The effects of a closure but for its notice: the window is CLOSED with its timer stopped, and the
ARROW screens are appended (R28). -/
def State.shutWindow (s : State) : State :=
  State.appendArrows { s with cmd := { s.cmd with maint := none } }

/-- The MAINT_WINDOW notice of a closure (R28). -/
def State.closureNotice (s : State) (cause : ClosureCause) : Notice :=
  s.mkNotice .maintWindow false 0 (closureCode cause)

/-- A closure of the maintenance window (R28). -/
def State.closeWindowWith (s : State) (cause : ClosureCause) : State :=
  s.shutWindow.hand (s.closureNotice cause)

/-- OPEN WINDOW (R25). -/
def State.cmdOpenWindow (s : State) : State :=
  if s.isReady = false then s.endCommand { outcome := .refusedState }
  else if s.lines.maint.deb = false then s.endCommand { outcome := .refusedLine }
  else if s.muster.state ≠ .normal then s.endCommand { outcome := .refusedState }
  else if s.cmd.maint.isSome then s.endCommand { outcome := .refusedMaint }
  else
    let s1 : State := { s with cmd := { s.cmd with maint := some 0 } }
    s1.endCommand { outcome := .done, detail := BitVec.ofNat 32 s.cfg.timing.maintMinutes }

/-- CLOSE WINDOW (R26). -/
def State.cmdCloseWindow (s : State) : State :=
  if s.isReady = false then s.endCommand { outcome := .refusedState }
  else if s.cmd.maint.isNone then s.endCommand { outcome := .refusedMaint }
  else (s.closeWindowWith .command).endCommand { outcome := .done }

/-- A fall of the debounced MAINT level closes an OPEN window (R27). -/
def State.maintFall (s : State) : State := if s.cmd.maint.isSome then s.closeWindowWith .line else s

/-- The maintenance timer reaches the maintenance time (R27). -/
def State.maintExpiry (s : State) : State :=
  match s.cmd.maint with
  | some t => if s.maintLimit ≤ t then s.closeWindowWith .timer else s
  | none => s

end Sys2Proof.Machine
end

