-- ==== Sys2Proof/Machine/Muster.lean ====
section
/-! DEFINITION. The Muster controller: changes of muster state and what they set in motion, orders to
muster, drills, all clear and standdown, and the bell recogniser (spec 04). -/

namespace Sys2Proof.Machine

open Sys2Proof

/-! ## A change of muster state (R68, R69) -/

/-- Origin codes of MUSTER_STATE (spec 11). -/
def originCode : Origin → Nat
  | .bell => 1
  | .line => 2
  | .command => 3
  | .timer => 4

/-- The detail of MUSTER_STATE: state code in byte 0, origin in byte 1 (R68, spec 11). -/
def musterDetail (st : MusterState) (o : Origin) : Word :=
  BitVec.ofNat 32 (musterCode st + 256 * originCode o)

/-- Three lists of notices one after another, in one of the six orders. -/
def arrange (o : Fin 6) (a b c : List Notice) : List Notice :=
  match o.val with
  | 0 => a ++ b ++ c
  | 1 => a ++ c ++ b
  | 2 => b ++ a ++ c
  | 3 => b ++ c ++ a
  | 4 => c ++ a ++ b
  | _ => c ++ b ++ a

/-- A DRILL or MUSTER state. -/
def isAlert : MusterState → Bool
  | .drill | .muster => true
  | .undecided | .normal | .standdown => false

/-- The report mark is set ARMED at an entry into DRILL or MUSTER in READY, and CLEAR at a change to
NORMAL or STANDDOWN (R49). -/
def State.armReport (s : State) : State :=
  { s with screen := { s.screen with mark := isAlert s.muster.state && s.isReady } }

/-- Whether a change from muster state `before` closes the maintenance window (R27). -/
def State.closesWindow (s : State) (before : MusterState) : Bool :=
  decide (before = .normal) && isAlert s.muster.state && s.cmd.maint.isSome

/-- The Muster controller's record becomes `m`, a change of muster state of the given origin, and the
change sets the other blocks in motion (R68, R69). MUSTER_STATE is handed first. The notices of the
other blocks follow in an order that the spec leaves free (log 10). -/
def State.changeMuster (s : State) (m : MusterUnit) (origin : Origin) : State :=
  let s1 : State := { s with muster := m }
  let s2 := s1.hand (s1.mkNotice .musterState true 0 (musterDetail m.state origin))
  let closes := s2.closesWindow s.muster.state
  let s3 := if closes then s2.shutWindow else s2
  let closure := if closes then [s2.closureNotice .muster] else []
  let s4 := s3.armReport.uncoverAll
  let coverage := s4.coverageNotices
  let s5 := s4.clearReport.driveShown.appendArrows
  let s6 : State := { s5 with cabin := s5.cabin.urgentCauses s5.time.uptime fun _ => true }
  let refresh := s6.dueNotices
  let s7 := s6.markNotified
  { s7.handAll (arrange (Config.noticeOrder s.free) closure coverage refresh) with free := s.free + 1 }

/-! ## Orders to muster (R61) -/

/-- The origin that an order's cause gives a change (R68). -/
def originOf : MusterCause → Origin
  | .bell => .bell
  | .line => .line
  | .command => .command
  | .none => .command

/-- The record after an entry into MUSTER: the epoch increments, the cause is taken, the standdown
timer stops (R61). -/
def MusterUnit.enterMuster (m : MusterUnit) (cause : MusterCause) : MusterUnit :=
  { m with state := .muster, epoch := m.epoch + 1, cause := cause, standdown := none }

/-- An order to muster with its cause (R61). Before start-up ends the state takes no event (R59). -/
def State.orderMuster (s : State) (cause : MusterCause) : State :=
  match s.muster.state with
  | .normal | .drill | .standdown => s.changeMuster (s.muster.enterMuster cause) (originOf cause)
  | .muster => { s with muster := { s.muster with repeats := satInc s.muster.repeats } }
  | .undecided => s

/-! ## The five muster commands (R61, R63 to R65, R67) -/

/-- The detail of the muster commands: state code in byte 0, epoch in bytes 2 and 3 (spec 11). -/
def State.musterWord (s : State) : Word :=
  s.muster.epoch ++ BitVec.ofNat 16 (musterCode s.muster.state)

/-- A muster command ends with the state and the epoch as they stand after it (R61). -/
def State.endMuster (s : State) (o : CmdOutcome) : State :=
  s.endCommand { outcome := o, detail := s.musterWord }

/-- MUSTER ORDER (R61). -/
def State.cmdMusterOrder (s : State) : State := (s.orderMuster .command).endMuster .done

/-- DRILL START (R63). -/
def State.cmdDrillStart (s : State) : State :=
  if s.muster.state = .normal then
    (s.changeMuster { s.muster with state := .drill, epoch := s.muster.epoch + 1 } .command).endMuster .done
  else s.endMuster .refusedState

/-- DRILL END (R64). -/
def State.cmdDrillEnd (s : State) : State :=
  if s.muster.state = .drill then
    (s.changeMuster { s.muster with state := .normal } .command).endMuster .done
  else s.endMuster .refusedState

/-- ALL CLEAR (R65). -/
def State.cmdAllClear (s : State) : State :=
  if s.muster.state ≠ .muster then s.endMuster .refusedState
  else if s.lines.muster.deb then s.endMuster .refusedLine
  else (s.changeMuster { s.muster with state := .standdown, standdown := some 0 } .command).endMuster .done

/-- STANDDOWN END (R67). -/
def State.cmdStanddownEnd (s : State) : State :=
  if s.muster.state = .standdown then
    (s.changeMuster { s.muster with state := .normal, standdown := none } .command).endMuster .done
  else s.endMuster .refusedState

/-! ## The standdown timer (R66) -/

/-- The standdown time in ms (R59). -/
def State.standdownLimit (s : State) : Nat := s.cfg.timing.standdownMinutes * 60000

/-- The standdown timer reaches the standdown time (R66). -/
def State.standdownExpiry (s : State) : State :=
  match s.muster.state, s.muster.standdown with
  | .standdown, some t =>
    if s.standdownLimit ≤ t then s.changeMuster { s.muster with state := .normal, standdown := none } .timer
    else s
  | _, _ => s

/-! ## The bell recogniser (R54 to R58) -/

/-- The class of a high period of length `d` ms that ends at a fall (spec 04, table of classes). -/
inductive BlastClass where
  | noise
  | short
  | invalid
deriving DecidableEq, Repr

/-- Classify a high period below 4000 ms (spec 04, table of classes). -/
def blastClass (d : Nat) : BlastClass :=
  if d < 300 then .noise else if d < 2000 then .short else .invalid

/-- A rise begins a high period (R54). -/
def MusterUnit.bellRise (m : MusterUnit) : MusterUnit :=
  match m.bell with
  | .idle | .counting => { m with highTimer := some 0 }
  | .long => m

/-- The recogniser back in IDLE with its count lost (R55, R57). -/
def MusterUnit.loseCount (m : MusterUnit) : MusterUnit :=
  { m with bell := .idle, count := 0, gapTimer := none, gapExpired := false }

/-- A fall ends a high period of `d` ms, below 4000 ms in IDLE and COUNTING (R55). -/
def MusterUnit.bellFall (m : MusterUnit) (d : Nat) : MusterUnit :=
  let stopped : MusterUnit := { m with highTimer := none }
  match m.bell, blastClass d with
  | .long, _ => { stopped with bell := .idle }
  | .idle, .short => { stopped with bell := .counting, count := 1, gapTimer := some 0 }
  | .idle, .noise => stopped
  | .idle, .invalid => stopped
  | .counting, .noise => if m.gapExpired then stopped.loseCount else stopped
  | .counting, .short => { stopped with count := min (m.count + 1) 15, gapTimer := some 0, gapExpired := false }
  | .counting, .invalid => stopped.loseCount

/-- The recogniser after a long blast: LONG, the count 0, timers stopped, the mark clear (R56). -/
def MusterUnit.afterLong (m : MusterUnit) : MusterUnit :=
  { m with bell := .long, count := 0, highTimer := none, gapTimer := none, gapExpired := false }

/-- GENERAL ALARM with a count of short blasts: ALARM_HEARD, then an order to muster with cause BELL
(R58). -/
def State.generalAlarm (s : State) (count : Nat) : State :=
  (s.hand (s.mkNotice .alarmHeard true 0 (BitVec.ofNat 32 count))).orderMuster .bell

/-- Whether the present high period has reached 4000 ms and is not yet taken as a long blast (R56). -/
def MusterUnit.longDue (m : MusterUnit) : Bool :=
  match m.bell, m.highTimer with
  | .long, _ => false
  | _, some t => decide (Config.longBlastMs ≤ t)
  | _, none => false

/-- The high timer reaches 4000 ms: a long blast, and a GENERAL ALARM if the count is 7 or more (R56). -/
def State.takeLongBlast (s : State) : State :=
  if s.muster.longDue then
    let s1 : State := { s with muster := s.muster.afterLong }
    if Config.alarmCount ≤ s.muster.count then s1.generalAlarm s.muster.count else s1
  else s

/-- A fall of the deglitched BELL level. A period that has reached 4000 ms is a long blast first (R55,
log 30). -/
def State.takeBellFall (s : State) : State :=
  let s1 := s.takeLongBlast
  { s1 with muster := s1.muster.bellFall (s1.muster.highTimer.getD 0) }

/-- The gap timer reaches 3000 ms (R57). -/
def State.gapExpiry (s : State) : State :=
  match s.muster.gapTimer with
  | some t =>
    if Config.gapMs ≤ t then
      if s.lines.bell.deg then { s with muster := { s.muster with gapTimer := none, gapExpired := true } }
      else { s with muster := s.muster.loseCount }
    else s
  | none => s

end Sys2Proof.Machine
end

