-- ==== Sys2Proof/Machine/Notices.lean ====
section
/-! DEFINITION. The Notice writer: the head index, SET RING, and its turns (spec 09). -/

namespace Sys2Proof.Machine

open Sys2Proof

/-! ## The ring descriptor and the head index (R155) -/

/-- The entry count field of the descriptor copy (spec 11). -/
def NoticeUnit.descCount (u : NoticeUnit) : Nat := (field16 (vecByte u.desc) 4).toNat

/-- The watermark field of the descriptor copy (spec 11). -/
def NoticeUnit.descWatermark (u : NoticeUnit) : Nat := (field16 (vecByte u.desc) 6).toNat

/-- The head index field of the descriptor copy (spec 11). -/
def NoticeUnit.descHead (u : NoticeUnit) : Nat := (field16 (vecByte u.desc) 8).toNat

/-- The ring base field of the descriptor copy, its low six bits ignored (R152, spec 11). -/
def NoticeUnit.descBase (u : NoticeUnit) : Addr := alignLine (field32 (vecByte u.desc) 0)

/-- A head index is valid: below the entry count, and not beyond the tail (R155). -/
def NoticeUnit.headValid (u : NoticeUnit) (h : Nat) : Bool :=
  decide (h < u.ring.count) && decide (u.ahead h ≤ u.unread)

/-- The urgent slot if it is still among the unread slots (R155). -/
def NoticeUnit.keepUrgent (u : NoticeUnit) : Option Nat :=
  match u.urgent with
  | some j => if u.ahead j < u.unread then some j else none
  | none => none

/-- The head index that the copy holds is tested: a valid one becomes the accepted head, any other is
counted (R155). -/
def NoticeUnit.testHead (u : NoticeUnit) : NoticeUnit :=
  if u.headValid u.descHead then
    let v : NoticeUnit := { u with head := u.descHead }
    NoticeUnit.evalIrq { v with urgent := v.keepUrgent }
  else { u with badHead := satInc u.badHead }

/-- A line that holds the ring descriptor is delivered: the copy takes the enabled bytes, and the head
index is tested if one of its bytes was enabled (R155). -/
def State.deliverRing (s : State) (w : WriteLine) : State :=
  let u : NoticeUnit := { s.notice with desc := mergeBytes s.notice.desc 0 w }
  { s with notice := if anyEnabled w.en 8 2 then u.testHead else u }

/-! ## SET RING (R152) -/

/-- Whether a ring of `count` entries from `base` stays below the top of the address space (R152). -/
def ringFits (base : Addr) (count : Nat) : Bool := decide (base.toNat + count * 16 ≤ 4294967296)

/-- SET RING (R152). Where a tail word write is still due from an earlier order, one write answers both: the
model's choice (log 47). -/
def State.cmdSetRing (s : State) : State :=
  let u := s.notice
  if u.head ≠ u.tail then s.endCommand { outcome := .refusedState }
  else if u.descCount < 16 ∨ 1024 < u.descCount then s.endCommand { outcome := .refusedRange }
  else if u.descWatermark < 1 ∨ u.descCount - 1 < u.descWatermark then
    s.endCommand { outcome := .refusedRange }
  else if ringFits u.descBase u.descCount = false then s.endCommand { outcome := .refusedRange }
  else
    let v : NoticeUnit := { u with
      ring := { base := u.descBase, count := u.descCount, watermark := u.descWatermark }
      head := 0, tail := 0, urgent := none, tailDue := true }
    State.endCommand { s with notice := v.evalIrq }
      { outcome := .done, detail := BitVec.ofNat 32 u.descCount }

/-! ## Turns (R154, R157, R158) -/

/-- Kind codes of the notice record (spec 11). -/
def kindCode : NoticeKind → Byte
  | .memoryFault => 1
  | .protectViolation => 2
  | .maintWindow => 3
  | .sourceFault => 4
  | .screenLit => 5
  | .screenDark => 6
  | .coverageComplete => 7
  | .alarmHeard => 8
  | .musterState => 9
  | .stationChanged => 10
  | .routeNone => 11
  | .routeFault => 12
  | .clockShifted => 13
  | .entryRejected => 14
  | .cabinRefresh => 15

/-- The 16 bytes of a notice record (spec 11). -/
def recordBytes (n : Notice) : List Byte :=
  [kindCode n.kind, flagByte n.urgent] ++ bytes16 n.epoch ++ bytes32 n.stamp ++ bytes32 n.subject ++
    bytes32 n.detail

/-- The IWQ write of a notice record to a slot of the ring, the 16 bytes of that slot enabled (R154,
R168). -/
def recordEntry (r : RingConf) (slot : Nat) (n : Notice) : IwqEntry :=
  let a := r.base + BitVec.ofNat 32 (slot * 16)
  let o := a.toNat % 64
  { kind := .notice, addr := alignLine a, data := lineAt o (recordBytes n), en := enablesAt o 16 }

/-- The IWQ write of the tail word, its 4 bytes enabled (R154, R168, spec 11). -/
def State.tailEntry (s : State) (tail : Nat) : IwqEntry :=
  { kind := .tail, addr := nthLine (s.cfg.control.getD 0) 2
    data := lineOf (bytes16 (BitVec.ofNat 16 tail)), en := enablesAt 0 4 }

/-- The IWQ write of a whole status line with the present values (R158, R168). -/
def State.statusEntry (s : State) (i : Fin 7) : IwqEntry :=
  { kind := .status i, addr := nthLine (s.cfg.control.getD 0) (4 + i.val), data := s.statusLine i
    en := enablesAll }

/-- The conditions of the notices' turn: a queued notice, space in the ring, two free IWQ entries
(R154). -/
def State.noticeTurnReady (s : State) : Bool :=
  decide (s.notice.queue ≠ []) && decide (s.notice.unread < s.notice.ring.count - 1) &&
    decide (2 ≤ s.path.iwqFree)

/-- The tail advanced by one, from entry count − 1 to 0 (R154). -/
def NoticeUnit.nextTail (u : NoticeUnit) : Nat := if u.tail + 1 < u.ring.count then u.tail + 1 else 0

/-- The notices' turn: the oldest notice is written to slot tail, then the advanced tail word (R154). -/
def State.noticeTurn (s : State) : State :=
  match s.notice.queue with
  | n :: rest =>
    let slot := s.notice.tail
    let u : NoticeUnit := { s.notice with
      queue := rest
      tail := s.notice.nextTail
      urgent := if n.urgent then some slot else s.notice.urgent
      lastTurn := .notices }
    (State.placeIwq { s with notice := u.evalIrq } (recordEntry s.notice.ring slot n)).placeIwq
      (s.tailEntry u.tail)
  | [] => s

/-- The dirty status lines, in line order (R157, R158). -/
def NoticeUnit.dirtyLines (u : NoticeUnit) : List (Fin 7) :=
  (List.finRange 7).filter fun i => u.dirty[i]

/-- Place the write of status line `i` and clear its dirty mark (R158). -/
def State.placeStatus (s : State) (i : Fin 7) : State :=
  State.placeIwq { s with notice := { s.notice with dirty := s.notice.dirty.set i false } } (s.statusEntry i)

/-- The status turn over some lines: as many as the IWQ has room for are placed, and the rest wait for
the turn to finish (R158, log 17). -/
def State.statusTurn (s : State) (lines : List (Fin 7)) : State :=
  let room := s.path.iwqFree
  let s1 := (lines.take room).foldl State.placeStatus s
  { s1 with notice := { s1.notice with turnLines := lines.drop room, lastTurn := .status } }

/-- The tail word write that SET RING or start-up ordered, with the value 0 (R152, R159, log 18). -/
def State.tailTurn (s : State) : State :=
  State.placeIwq { s with notice := { s.notice with tailDue := false, lastTurn := .ringTail } } (s.tailEntry 0)

/-- Whether a turn has something to do (R158). -/
def State.turnReady (s : State) : Turn → Bool
  | .notices => s.noticeTurnReady
  | .status => decide (s.notice.dirtyLines ≠ [])
  | .ringTail => s.notice.tailDue

/-- Take a turn (R158). -/
def State.takeTurn (s : State) : Turn → State
  | .notices => s.noticeTurn
  | .status => s.statusTurn s.notice.dirtyLines
  | .ringTail => s.tailTurn

/-- The turns in the order in which they are considered after the one done last (R158). -/
def turnsAfter : Turn → List Turn
  | .notices => [.status, .ringTail, .notices]
  | .status => [.ringTail, .notices, .status]
  | .ringTail => [.notices, .status, .ringTail]

/-- The Notice writer's turn: while the IWQ has a free entry it finishes an unfinished turn, or takes the
first turn that has something to do, starting after the one it did last (R158). -/
def State.writerTurn (s : State) : State :=
  if s.started = false ∨ s.path.iwqFree = 0 then s
  else if s.notice.turnLines ≠ [] then s.statusTurn s.notice.turnLines
  else
    match (turnsAfter s.notice.lastTurn).find? s.turnReady with
    | some t => s.takeTurn t
    | none => s

end Sys2Proof.Machine
end

