-- ==== Sys2Proof/Machine/Programme.lean ====
section
/-! DEFINITION. The Programme engine: the ship clock, shifts, the programme shadow and its evaluation,
the ordered list, and the selections (spec 07). -/

namespace Sys2Proof.Machine

open Sys2Proof

/-! ## Evaluation of entries (R117 to R119) -/

/-- The minute number of a day and a minute (R108, R119). -/
def minuteNumber (day minute : Nat) : Nat := day * 1440 + minute

/-- The start minute field of an entry's bytes (spec 11). -/
def entryStart (b : Vector Byte 32) : Nat := (field16 (vecByte b) 4).toNat

/-- The duration field of an entry's bytes (spec 11). -/
def entryDuration (b : Vector Byte 32) : Nat := (field16 (vecByte b) 6).toNat

/-- The first failing field of an entry, by its number (R117). -/
def failingField (b : Vector Byte 32) : Option Nat :=
  if 7 < (vecByte b 1).toNat then some 1
  else if 1439 < entryStart b then some 2
  else if entryDuration b = 0 ∨ 720 < entryDuration b then some 3
  else if 19 < (vecByte b 3).toNat then some 4
  else if 19 < (vecByte b 8).toNat then some 5
  else if 60 < (vecByte b 9).toNat then some 6
  else none

/-- The list entry that an evaluation reads from an entry's bytes (R119, spec 11). -/
def listEntryOf (i : Nat) (b : Vector Byte 32) : ListEntry :=
  let start := minuteNumber (vecByte b 2).toNat (entryStart b)
  { index := i
    start := start
    finish := start + entryDuration b
    category := (vecByte b 1).toNat
    deck := (vecByte b 8).toNat
    featured := (vecByte b 0).getLsbD 1
    venue := (vecByte b 3).toNat
    lead := (vecByte b 9).toNat }

/-- The order of the list: by start, then by index (R119). -/
def listedBefore (a b : ListEntry) : Bool :=
  decide (a.start < b.start ∨ (a.start = b.start ∧ a.index < b.index))

/-- Put an entry into its place (R119). -/
def insertListed (e : ListEntry) : List ListEntry → List ListEntry
  | [] => [e]
  | x :: rest => if listedBefore e x then e :: x :: rest else x :: insertListed e rest

/-- Take entry `i` out of the ordered list (R117, R119). -/
def removeListed (i : Nat) (l : List ListEntry) : List ListEntry := l.filter fun e => decide (e.index ≠ i)

/-- The status that an evaluation of an entry's bytes gives (R117). -/
def statusOf (b : Vector Byte 32) : EntryStatus :=
  if (vecByte b 0).getLsbD 0 = false then .empty
  else
    match failingField b with
    | some n => .rejected n
    | none => .listed

/-- The ENTRY_REJECTED notice of an evaluation, unless the entry was rejected for the same field before
(R118). -/
def State.rejectNotices (s : State) (i : Nat) (before after : EntryStatus) : List Notice :=
  match after with
  | .rejected n =>
    if before = .rejected n then []
    else [s.mkNotice .entryRejected false (BitVec.ofNat 32 i) (BitVec.ofNat 32 n)]
  | _ => []

/-- The ordered list after an evaluation of entry `i` (R117, R119). -/
def relist (i : Nat) (b : Vector Byte 32) (st : EntryStatus) (l : List ListEntry) : List ListEntry :=
  match st with
  | .listed => insertListed (listEntryOf i b) (removeListed i l)
  | .empty | .rejected _ => removeListed i l

/-- Whether a status is REJECTED. -/
def EntryStatus.isRejected : EntryStatus → Bool
  | .rejected _ => true
  | .empty | .listed => false

/-- Evaluate entry `i` with its bytes as the shadow holds them (R117 to R119). -/
def State.evalEntry (s : State) (i : Nat) : State :=
  match s.prog.shadow[i]? with
  | some e =>
    let st := statusOf e.bytes
    let prog : ProgUnit :=
      { s.prog with
        shadow := s.prog.shadow.set i { e with status := st }
        order := relist i e.bytes st s.prog.order
        rejected := if st.isRejected then satInc s.prog.rejected else s.prog.rejected }
    State.handAll { s with prog := prog } (s.rejectNotices i e.status st)
  | none => s

/-! ## Selections (R120 to R124) -/

/-- The minute number T of the clock (R108). -/
def ProgUnit.minuteNow (p : ProgUnit) : Nat := p.day * 1440 + p.sec / 60

/-- Whether an entry matches a screen (R121). -/
def matchesScreen (c : ScreenConf) (e : ListEntry) : Bool :=
  c.deckMask.getLsbD e.deck && c.categoryMask.getLsbD e.category

/-- Whether an entry is running at T (R119). -/
def ListEntry.running (t : Nat) (e : ListEntry) : Bool := decide (e.start ≤ t) && decide (t < e.finish)

/-- Whether an entry is featured at T: running, or within its lead (R123). -/
def ListEntry.features (t : Nat) (e : ListEntry) : Bool :=
  e.featured && (e.running t || (decide (t < e.start) && decide (e.start - t ≤ e.lead)))

/-- The featured target of a WAYFINDING screen (R120, R123). -/
def ProgUnit.featuredTarget (p : ProgUnit) (sc : Screen) : Nat :=
  if p.clockSet then
    match p.order.find? fun e => matchesScreen sc.conf e && e.features p.minuteNow with
    | some e => 12 + e.venue
    | none => sc.defaultTarget
  else sc.defaultTarget

/-- The NOW entry of a screen (R121). -/
def ProgUnit.nowEntry (p : ProgUnit) (c : ScreenConf) : Option ListEntry :=
  if p.clockSet then p.order.find? fun e => matchesScreen c e && e.running p.minuteNow else none

/-- The NEXT entry of a screen (R121). -/
def ProgUnit.nextEntry (p : ProgUnit) (c : ScreenConf) : Option ListEntry :=
  if p.clockSet then p.order.find? fun e => matchesScreen c e && decide (p.minuteNow < e.start) else none

/-- The featured target field of a screen's record: WAYFINDING screens only (R120). -/
def ProgUnit.featuredField (p : ProgUnit) (sc : Screen) : Option Nat :=
  match sc.conf.kind with
  | .wayfinding => some (p.featuredTarget sc)
  | .programme | .general => none

/-- The selection record of a screen, none for a GENERAL screen (R120 to R123). -/
def ProgUnit.select (p : ProgUnit) (sc : Screen) : Option Selection :=
  match sc.conf.kind with
  | .general => none
  | .wayfinding | .programme => some
    { now := (p.nowEntry sc.conf).map (·.index)
      next := (p.nextEntry sc.conf).map (·.index)
      countdown := (p.nextEntry sc.conf).map fun e => e.start - p.minuteNow
      featured := p.featuredField sc }

/-- The screens whose featured target differs between two sets of records, in screen order (R123). -/
def featuredChanges (before after : List (Option Selection)) : List Nat :=
  (List.range after.length).filter fun i =>
    match after[i]?, before[i]? with
    | some (some a), some (some b) => decide (a.featured ≠ b.featured)
    | _, _ => false

/-- Those of some screens that have an ARROW pane (R96). -/
def State.withArrow (s : State) (l : List Nat) : List Nat :=
  l.filter fun i =>
    match s.screen.screens[i]? with
    | some sc => sc.hasArrow
    | none => false

/-- The selections of every screen are computed at one instant, and changes of featured targets are
handed to the Route engine in screen order (R96, R123, R124). -/
def State.computeSelections (s : State) : State :=
  let sel := s.screen.screens.map s.prog.select
  let s1 : State := { s with prog := { s.prog with sel := sel } }
  s1.appendScreens (s1.withArrow (featuredChanges s.prog.sel sel))

/-- One screen's featured target is computed, and a change handed over (R123, R151). -/
def State.computeFeatured (s : State) (i : Nat) : State :=
  match s.screen.screens[i]? with
  | some sc =>
    let sel := s.prog.sel.modify i fun r => r.map fun v => { v with featured := s.prog.featuredField sc }
    let s1 : State := { s with prog := { s.prog with sel := sel } }
    s1.appendScreens (s1.withArrow (featuredChanges s.prog.sel sel))
  | none => s

/-! ## Delivered lines (R116) -/

/-- The bytes of entry `i` at offset `o` of a delivered line are merged, and the entry is evaluated if
it received an enabled byte (R116). -/
def State.takeEntry (s : State) (i o : Nat) (w : WriteLine) : State :=
  if anyEnabled w.en o 32 then
    State.evalEntry
      { s with prog := { s.prog with
          shadow := s.prog.shadow.modify i fun e => { e with bytes := mergeBytes e.bytes o w } } } i
  else s

/-- Line `k` of the programme table is delivered. A line whose enables are all clear changes nothing
(R20, R116, log 32). Its two entries are evaluated, and reported if rejected, in rising index, the model's
choice (log 46). -/
def State.deliverProgramme (s : State) (k : Nat) (w : WriteLine) : State :=
  if anyEnabled w.en 0 64 then ((s.takeEntry (2 * k) 0 w).takeEntry (2 * k + 1) 32 w).computeSelections
  else s

/-! ## The ship clock (R109, R113) -/

/-- One second's advance of the clock (R109). -/
def ProgUnit.advance (p : ProgUnit) : ProgUnit :=
  if p.sec + 1 < 86400 then { p with sec := p.sec + 1, phase := 0 }
  else { p with sec := 0, day := min (p.day + 1) 255, phase := 0 }

/-- Whether the clock stands at the moment of its pending shift (R113). -/
def ProgUnit.shiftReached (p : ProgUnit) : Option Shift :=
  match p.shift with
  | some h => if p.day = h.day ∧ p.sec = h.minute * 60 then some h else none
  | none => none

/-- The clock after a shift is applied: the second moves, the day and the phase stay, and the pending
shift is cleared (R113). -/
def ProgUnit.applyShift (p : ProgUnit) (h : Shift) : ProgUnit :=
  { p with sec := ((p.sec : Int) + h.minutes * 60).toNat, shift := none }

/-- The clock phase reaches 1000 ms while the clock is SET: it advances by one second, applies a shift
that it reaches, and computes the selections at a minute boundary (R109, R113, R124). -/
def State.clockTick (s : State) : State :=
  if s.prog.clockSet && decide (1000 ≤ s.prog.phase) then
    let p := s.prog.advance
    match p.shiftReached with
    | some h =>
      let s1 : State := { s with prog := p.applyShift h }
      (s1.hand (s1.mkNotice .clockShifted false 0 (BitVec.ofInt 32 h.minutes))).computeSelections
    | none =>
      let s1 : State := { s with prog := p }
      if p.sec % 60 = 0 then s1.computeSelections else s1
  else s

/-! ## Clock commands (R110 to R112) -/

/-- SET CLOCK (R110). -/
def State.cmdSetClock (s : State) (day second : Nat) : State :=
  if 255 < day ∨ 86399 < second then s.endCommand { outcome := .refusedRange }
  else
    let s1 : State := { s with prog := { s.prog with
      clockSet := true, day := day, sec := second, phase := 0, shift := none } }
    s1.computeSelections.endCommand { outcome := .done, shiftCancelled := s.prog.shift.isSome }

/-- Whether a number of minutes is a shift: not 0, a multiple of 15, from −120 to 120 (R111). -/
def shiftValid (minutes : Int) : Bool :=
  decide (minutes ≠ 0) && decide (minutes % 15 = 0) && decide (-120 ≤ minutes) && decide (minutes ≤ 120)

/-- SCHEDULE SHIFT (R111). -/
def State.cmdScheduleShift (s : State) (day minute : Nat) (minutes : Int) : State :=
  if 255 < day ∨ 1439 < minute then s.endCommand { outcome := .refusedRange }
  else if shiftValid minutes = false then s.endCommand { outcome := .refusedRange }
  else if (minute : Int) + minutes < 0 ∨ 1439 < (minute : Int) + minutes then
    s.endCommand { outcome := .refusedRange }
  else if s.prog.clockSet = false then s.endCommand { outcome := .refusedState }
  else
    let s1 : State := { s with prog := { s.prog with shift := some { day, minute, minutes } } }
    s1.endCommand { outcome := .done, detail := if s.prog.shift.isSome then 1 else 0 }

/-- CANCEL SHIFT (R112). -/
def State.cmdCancelShift (s : State) : State :=
  let s1 : State := { s with prog := { s.prog with shift := none } }
  s1.endCommand { outcome := .done, detail := if s.prog.shift.isSome then 1 else 0 }

/-- SET DEFAULT TARGET (R151). The featured target is computed for a WAYFINDING screen. -/
def State.cmdSetDefaultTarget (s : State) (screen target : Nat) : State :=
  if s.isReady = false then s.endCommand { outcome := .refusedState }
  else if s.screen.screens.length ≤ screen then s.endCommand { outcome := .refusedRange }
  else if 31 < target then s.endCommand { outcome := .refusedRange }
  else
    let s1 := s.modScreen screen fun c => { c with defaultTarget := target }
    (s1.computeFeatured screen).endCommand { outcome := .done, detail := BitVec.ofNat 32 target }

end Sys2Proof.Machine
end

