-- ==== Sys2Proof/Machine/Routes.lean ====
section
/-! DEFINITION. The Route engine: segment states, availability and cost, route records, computations
with hysteresis, and route results (spec 06). -/

namespace Sys2Proof.Machine

open Sys2Proof

/-! ## Segment states (R87 to R89) -/

/-- A segment status byte's code (R87). -/
def softOf (b : Byte) : Option SoftState :=
  match b.toNat with
  | 0 => some .opened
  | 1 => some .restricted
  | 2 => some .closed
  | _ => none

/-- One status byte is taken for segment `i`: its state is set, a bad code is counted, and a byte of a
segment that is not present is ignored (R87). -/
def RouteUnit.takeByte (r : RouteUnit) (i : Nat) (b : Byte) : RouteUnit :=
  match r.segments[i]? with
  | some seg =>
    match softOf b with
    | some st => { r with segments := r.segments.set i { seg with soft := st } }
    | none => { r with badSeg := satInc r.badSeg }
  | none => r

/-- The software states of the segments. -/
def RouteUnit.softs (r : RouteUnit) : List SoftState := r.segments.map (·.soft)

/-- Bytes taken at one instant, each with its segment; the ARROW screens are appended once if a
software state of a present segment has changed (R87, R88). -/
def State.takeBytes (s : State) (l : List (Nat × Byte)) : State :=
  let r := l.foldl (fun r q => r.takeByte q.1 q.2) s.route
  let s1 : State := { s with route := r }
  if r.softs = s.route.softs then s1 else s1.appendArrows

/-- Line `k` of the segment status table is delivered (R87). -/
def State.deliverSegments (s : State) (k : Nat) (w : WriteLine) : State :=
  s.takeBytes ((List.range 64).filterMap fun j =>
    if (w.en[j]?).getD false then some (64 * k + j, vecByte w.data j) else none)

/-- A change of the debounced level of FIRE ZONE `n + 1` (R89). -/
def State.zoneChange (s : State) (n : Fin 8) (level : Bool) : State :=
  let s1 : State := { s with route := { s.route with zones := s.route.zones.set n level } }
  if s.route.segments.any fun g => decide (g.zone = n.val + 1) then s1.appendArrows else s1

/-! ## Availability and cost (R90 to R92) -/

/-- Whether the engine's copy of a boundary zone is asserted; zone 0 is none (R90). -/
def RouteUnit.zoneAsserted (r : RouteUnit) (zone : Nat) : Bool :=
  decide (zone ≠ 0) && (r.zones[zone - 1]?).getD false

/-- Whether a segment is available in a muster state (R90). -/
def RouteUnit.available (r : RouteUnit) (st : MusterState) (g : Segment) : Bool :=
  decide (g.soft ≠ .closed) && !r.zoneAsserted g.zone &&
    !(decide (g.kind = .lift) && (decide (st = .drill) || decide (st = .muster)))

/-- A segment kind's weight in sixteenths (R91). -/
def kindWeight : SegmentKind → Nat
  | .corridor => 16
  | .openDeck => 20
  | .bulkheadPassage => 24
  | .stairUp => 48
  | .stairDown => 32
  | .lift => 8

/-- The base cost, ceil(L × weight ÷ 16) (R91). -/
def baseCost (g : Segment) : Nat := (g.length * kindWeight g.kind + 15) / 16

/-- The cost of an available segment (R91). -/
def segmentCost (g : Segment) : Nat :=
  match g.soft with
  | .restricted => 4 * baseCost g
  | .opened | .closed => baseCost g

/-- The cost of a route: the saturating sum of its segments' costs, in listed order (R92). -/
def routeCost (l : List Segment) : Nat := l.foldl (fun sum g => min (sum + segmentCost g) 65535) 0

/-! ## Route records (R93, R94) -/

/-- A valid candidate: its glyph code and its segment numbers (R94). -/
structure Candidate where
  glyph : Nat
  ids : List Nat
deriving DecidableEq, Repr

/-- Byte `o` of candidate record `k` in the two lines of a screen and target (spec 06, section 6.3). -/
def candidateByte (d0 d1 : LineData) (k o : Nat) : Byte :=
  if k < 2 then vecByte d0 (32 * k + o) else vecByte d1 (32 * (k - 2) + o)

/-- Validate candidate record `k` against a map of `count` segments (R94). -/
def readCandidate (count : Nat) (d0 d1 : LineData) (k : Nat) : Option Candidate :=
  let n := (candidateByte d0 d1 k 2).toNat
  let glyph := (candidateByte d0 d1 k 1).toNat
  let ids := (List.range n).map fun j => (candidateByte d0 d1 k (4 + j)).toNat
  if (candidateByte d0 d1 k 0).getLsbD 0 = false then none
  else if n = 0 ∨ 14 < n then none
  else if 9 < glyph then none
  else if ids.any fun i => decide (count ≤ i) then none
  else some { glyph, ids }

/-- The segments that a candidate lists. -/
def RouteUnit.listed (r : RouteUnit) (c : Candidate) : List Segment := c.ids.filterMap fun i => r.segments[i]?

/-- An available candidate: index, cost and glyph code (R102). -/
structure Choice where
  index : Nat
  cost : Nat
  glyph : Nat
deriving DecidableEq, Repr

/-- Candidate `k` if it is valid and lists no unavailable segment (R102). -/
def RouteUnit.choice (r : RouteUnit) (st : MusterState) (d0 d1 : LineData) (k : Nat) : Option Choice :=
  match readCandidate r.segments.length d0 d1 k with
  | some c =>
    if (r.listed c).all (r.available st) then
      some { index := k, cost := routeCost (r.listed c), glyph := c.glyph }
    else none
  | none => none

/-- The available candidates, in index order (R102). -/
def RouteUnit.choices (r : RouteUnit) (st : MusterState) (d0 d1 : LineData) : List Choice :=
  (List.range 4).filterMap (r.choice st d0 d1)

/-- The candidate of lowest cost, and of lowest index among those of equal cost (R102). -/
def cheapest : List Choice → Option Choice
  | [] => none
  | c :: rest =>
    match cheapest rest with
    | some m => if m.cost < c.cost then some m else some c
    | none => some c

/-- The number of invalid candidates of an evaluation (R94). -/
def RouteUnit.invalidCount (r : RouteUnit) (d0 d1 : LineData) : Nat :=
  (List.range 4).countP fun k => (readCandidate r.segments.length d0 d1 k).isNone

/-- The candidate index that the present result keeps in play: it is SELECTED for the fetch target
(R103). -/
def keptIndex (present : RouteResult) (target : Nat) : Option Nat :=
  match present with
  | .selected t k _ _ => if t = target then some k else none
  | _ => none

/-- Hysteresis: the selected candidate stays unless the newcomer's cost is below its cost less one
eighth (R103). -/
def hysteresis (kept : Option Choice) (m : Choice) : Choice :=
  match kept with
  | some k => if m.cost < k.cost - k.cost / 8 then m else k
  | none => m

/-- The outcome of an evaluation for a target (R102, R103). -/
def RouteUnit.evaluate (r : RouteUnit) (st : MusterState) (present : RouteResult) (target : Nat)
    (d0 d1 : LineData) : RouteResult :=
  let available := r.choices st d0 d1
  match cheapest available with
  | some m =>
    let kept := (keptIndex present target).bind fun k => available.find? fun c => decide (c.index = k)
    let won := hysteresis kept m
    .selected target won.index won.cost won.glyph
  | none => .noRoute (some target)

/-! ## Computations (R99 to R105) -/

/-- A target in a notice's detail: 0 to 31, or 255 for NONE (R105, spec 11). -/
def targetDetail : Option Nat → Word
  | some t => BitVec.ofNat 32 t
  | none => 255

/-- The notice that a recorded result queues, unless it repeats the result it replaces (R105). -/
def State.routeNotices (s : State) (i : Nat) (before after : RouteResult) : List Notice :=
  match after with
  | .noRoute t =>
    if before = .noRoute t then [] else [s.mkNotice .routeNone true (screenWord i) (targetDetail t)]
  | .fault t =>
    if before = .fault t then [] else [s.mkNotice .routeFault true (screenWord i) (targetDetail (some t))]
  | _ => []

/-- A computation for screen `i` ends: its outcome becomes the screen's route result, a notice is
queued where R105 says so, and the engine is IDLE (R104, R105). -/
def State.endComputation (s : State) (i : Nat) (res : RouteResult) : State :=
  let before := s.route.results.getD i .none
  let s1 : State := { s with route := { s.route with results := s.route.results.set i res, flight := none } }
  s1.handAll (s1.routeNotices i before res)

/-- The address of the two lines of a screen and target (R93, R99). -/
def recordAddr (base : Addr) (screen target : Nat) : Addr :=
  base + BitVec.ofNat 32 (screen * 4096 + target * 128)

/-- What a computation does with a present target that it has decided: it ends at once, or starts an own
read of the two lines (R99). -/
def State.pursue (s : State) (i : Nat) (t : PresentTarget) : State :=
  match t with
  | .noTarget => s.endComputation i .none
  | .none => s.endComputation i (.noRoute none)
  | .at n =>
    match s.route.tableBase with
    | none => s.endComputation i (.fault n)
    | some base =>
      State.startOwnRead { s with route := { s.route with flight := some { screen := i, target := n } } }
        0 (recordAddr base i n) 2

/-- The idle engine takes the screen at the head of the work list (R99). -/
def State.startComputation (s : State) : State :=
  match s.route.flight, s.route.work with
  | none, i :: rest =>
    let s1 : State := { s with route := { s.route with work := rest } }
    match s1.screen.screens[i]? with
    | some sc => s1.pursue i (s1.presentTarget i sc)
    | none => s1
  | _, _ => s

/-- Counting the invalid candidates of an evaluation (R94). -/
def State.countInvalid (s : State) (n : Nat) : State :=
  { s with route := { s.route with recFault := min (s.route.recFault + n) Config.counterMax } }

/-- The own read of the route fetch is handed over: the target is decided again, and the fetch restarts,
or ends in FAULT, or is evaluated (R101 to R104). The lines are `none` where they failed. -/
def State.routeHandOver (s : State) (lines : List (Option LineData)) : State :=
  match s.route.flight with
  | some f =>
    match s.screen.screens[f.screen]? with
    | some sc =>
      let t := s.presentTarget f.screen sc
      if t = .at f.target then
        match lines with
        | [some d0, some d1] =>
          (s.countInvalid (s.route.invalidCount d0 d1)).endComputation f.screen
            (s.route.evaluate s.muster.state (s.route.results.getD f.screen .none) f.target d0 d1)
        | _ => s.endComputation f.screen (.fault f.target)
      else s.pursue f.screen t
    | none => { s with route := { s.route with flight := none } }
  | none => s

end Sys2Proof.Machine
end

