-- ==== Sys2Proof/Machine/Rescan.lean ====
section
/-! DEFINITION. RESCAN: its start, its reads, touched marks, hand-overs and end (spec 07, section 7.6). -/

namespace Sys2Proof.Machine

open Sys2Proof

/-- The table that RESCAN's argument names (R126, spec 11). -/
def scanTableOf (arg : Nat) : Option ScanTable :=
  match arg with
  | 0 => some .programme
  | 1 => some .segments
  | 2 => some .cabins
  | _ => none

/-- The window of a table, none if it was disabled (R126). -/
def Decoder.windowOf (c : Decoder) : ScanTable → Option Window
  | .programme => c.programme
  | .segments => c.segment
  | .cabins => c.cabin

/-- Units in a line of a table (spec 07, section 7.6). -/
def unitsPerLine : ScanTable → Nat
  | .segments => 64
  | .programme | .cabins => 2

/-- Bytes in a unit of a table (spec 07, section 7.6). -/
def unitBytes : ScanTable → Nat
  | .segments => 1
  | .programme | .cabins => 32

/-- The next read of a rescan starts: the next four lines of the window, or those that remain, in
own-read tracker 1, with its touched marks clear (R127). -/
def State.startScanRead (s : State) (w : Window) (table : ScanTable) (next rebuilt : Nat) : State :=
  let count := min 4 (w.lines - next)
  let record : Rescan :=
    { table, nextLine := next + count, rebuilt, first := next, count
      touched := List.replicate (count * unitsPerLine table) false }
  State.startOwnRead { s with cmd := { s.cmd with rescan := some record } } 1 (nthLine w.base next) count

/-- RESCAN (R126, R127). A rescan that passes the tests leaves the command executing. -/
def State.cmdRescan (s : State) (arg : Nat) : State :=
  if s.isReady = false then s.endCommand { outcome := .refusedState }
  else
    match scanTableOf arg with
    | none => s.endCommand { outcome := .refusedRange }
    | some table =>
      match s.cfg.windowOf table with
      | none => s.endCommand { outcome := .refusedState }
      | some w => s.startScanRead w table 0 0

/-- The touched marks of a rescan record after line `k` of `table` has been delivered with enables `en`:
each unit of the read in flight with an enabled byte is marked (R128). -/
def Rescan.touch (r : Rescan) (table : ScanTable) (k : Nat) (en : Enables) : Rescan :=
  if r.table = table ∧ r.first ≤ k ∧ k < r.first + r.count then
    { r with touched := r.touched.mapIdx fun u t =>
        t || (decide (u / unitsPerLine table = k - r.first) &&
          anyEnabled en (u % unitsPerLine table * unitBytes table) (unitBytes table)) }
  else r

/-- A delivered line of a table touches the units of a rescan read in flight (R128). -/
def State.touchScan (s : State) (table : ScanTable) (k : Nat) (en : Enables) : State :=
  { s with cmd := { s.cmd with rescan := s.cmd.rescan.map fun r => r.touch table k en } }

/-! ## Hand-over (R129, R130) -/

/-- An untouched unit of an arrived line: its number in the table, its data and its offset in the line. -/
structure ScanUnit where
  index : Nat
  data : LineData
  offset : Nat
deriving DecidableEq, Repr

/-- The untouched units of the arrived lines of a read, in order (R129). -/
def Rescan.units (r : Rescan) (lines : List (Option LineData)) : List ScanUnit :=
  (List.range lines.length).flatMap fun j =>
    match lines[j]? with
    | some (some d) => (List.range (unitsPerLine r.table)).filterMap fun u =>
        if (r.touched[j * unitsPerLine r.table + u]?).getD false then none
        else some { index := (r.first + j) * unitsPerLine r.table + u, data := d, offset := u * unitBytes r.table }
    | _ => []

/-- One programme entry is taken from memory and evaluated (R129). -/
def State.scanEntry (s : State) (u : ScanUnit) : State :=
  State.evalEntry
    { s with prog := { s.prog with
        shadow := s.prog.shadow.modify u.index fun e => { e with bytes := sliceBytes u.data u.offset } } }
    u.index

/-- The units that a table has: entries of the shadow, present segments, present cabins (R129). -/
def State.unitLimit (s : State) : ScanTable → Nat
  | .programme => s.prog.shadow.length
  | .segments => s.route.segments.length
  | .cabins => s.cabin.cabins.length

/-- The untouched units of a read are taken into the copy of their table at one instant (R129). Rejected
entries are reported in rising index, the model's choice (log 46). -/
def State.takeUnits (s : State) (table : ScanTable) (l : List ScanUnit) : State :=
  match table with
  | .programme => (l.foldl State.scanEntry s).computeSelections
  | .segments => s.takeBytes (l.map fun u => (u.index, vecByte u.data u.offset))
  | .cabins => (l.foldl (fun t u => t.takeHome u.index (vecByte u.data (u.offset + 1))) s).notifyCabins

/-- The rescan ends and the command ends DONE with the rebuilt count, and the FAULT flag if a line
failed (R130). -/
def State.endScan (s : State) (rebuilt : Nat) (fault : Bool) : State :=
  State.endCommand { s with cmd := { s.cmd with rescan := none } }
    { outcome := .done, fault, detail := BitVec.ofNat 32 rebuilt }

/-- A read of the rescan is handed over: its untouched units are taken, and the rescan goes on or ends
(R129, R130). The lines are `none` where they failed. -/
def State.scanHandOver (s : State) (lines : List (Option LineData)) : State :=
  match s.cmd.rescan with
  | some r =>
    let units := (r.units lines).filter fun u => decide (u.index < s.unitLimit r.table)
    let s1 := s.takeUnits r.table units
    let rebuilt := r.rebuilt + units.length
    if lines.any Option.isNone then s1.endScan rebuilt true
    else
      match s1.cfg.windowOf r.table with
      | some w => if r.nextLine < w.lines then s1.startScanRead w r.table r.nextLine rebuilt
                  else s1.endScan rebuilt false
      | none => s1.endScan rebuilt false
  | none => s

end Sys2Proof.Machine
end

