-- ==== Sys2Proof/Machine/Stations.lean ====
section
/-! DEFINITION. The Station unit: effective stations, the three station commands and PUBLISH PAGE
(spec 05). -/

namespace Sys2Proof.Machine

open Sys2Proof

/-! ## Effective stations (R73, R74) -/

/-- Follow alternates from `s` for at most `hops` hops, to the first OPEN station reached (R73). -/
def followAlternates (entries : Vector Station 12) : Nat → StationIx → Option StationIx
  | 0, _ => none
  | hops + 1, s =>
    match entries[s].alternate with
    | none => none
    | some a => if entries[a].closed then followAlternates entries hops a else some a

/-- The effective station of `s`: itself while OPEN, else the first OPEN station within three hops, or
NONE (R73). -/
def effectiveStation (entries : Vector Station 12) (s : StationIx) : Option StationIx :=
  if entries[s].closed then followAlternates entries 3 s else some s

/-- All twelve effective stations of a table (R74). -/
def allEffective (entries : Vector Station 12) : Vector (Option StationIx) 12 :=
  Vector.ofFn (effectiveStation entries)

/-- A table with its effective stations computed (R74). -/
def StationTable.of (entries : Vector Station 12) : StationTable :=
  { entries, effective := allEffective entries }

/-! ## Station commands (R75 to R78) -/

/-- The stations whose effective station differs between two computations, in index order (R78). -/
def changedStations (before after : Vector (Option StationIx) 12) : List StationIx :=
  (List.finRange 12).filter fun i => decide (before[i] ≠ after[i])

/-- The detail that tells an effective station: its index, or 255 for NONE (spec 11). -/
def stationDetail : Option StationIx → Word
  | some e => BitVec.ofNat 32 e.val
  | none => 255

/-- The STATION_CHANGED notice of a changed station (R78). -/
def State.stationNotice (s : State) (after : Vector (Option StationIx) 12) (i : StationIx) : Notice :=
  s.mkNotice .stationChanged true (BitVec.ofNat 32 i.val) (stationDetail after[i])

/-- Whether a cabin's home station is among the changed stations (R78, R140). -/
def Cabin.homeIn (changed : List StationIx) (c : Cabin) : Bool :=
  match c.home with
  | some h => decide (h ∈ changed)
  | none => false

/-- The cabins of the changed stations receive URGENT causes, and the Cabin unit notifies once (R78,
R140, R143). Where no station has changed no cause is given. The causes are given within the command, whatever
reads meet it (R78, R79). -/
def State.stationCauses (s : State) (changed : List StationIx) : State :=
  if changed = [] then s
  else State.notifyCabins
    { s with cabin := s.cabin.urgentCauses s.time.uptime (Cabin.homeIn changed) }

/-- What follows a station command that has left the table with `entries`: the effective stations are
recomputed, notices, cabin causes and route appends follow, and the command ends DONE with the number
of changed stations (R78). -/
def State.stationDone (s : State) (before : StationTable) (entries : Vector Station 12) : State :=
  let after := allEffective entries
  let changed := changedStations before.effective after
  let s1 : State := { s with station := { s.station with table := some (StationTable.of entries) } }
  let s2 := s1.handAll (changed.map fun i => s1.stationNotice after i)
  ((s2.stationCauses changed).appendArrows).endCommand
    { outcome := .done, detail := BitVec.ofNat 32 changed.length }

/-- The tests of a station command on its station argument, then its effect (R75). -/
def State.withStation (s : State) (station : Nat) (f : StationTable → StationIx → State) : State :=
  match s.station.table with
  | none => s.endCommand { outcome := .refusedState }
  | some t =>
    if h : station < 12 then f t ⟨station, h⟩ else s.endCommand { outcome := .refusedRange }

/-- STATION CLOSE (R76). -/
def State.cmdStationClose (s : State) (station : Nat) : State :=
  s.withStation station fun t i => s.stationDone t (t.entries.set i { t.entries[i] with closed := true })

/-- STATION OPEN (R76). -/
def State.cmdStationOpen (s : State) (station : Nat) : State :=
  s.withStation station fun t i => s.stationDone t (t.entries.set i { t.entries[i] with closed := false })

/-- SET ALTERNATE: the alternate is 0 to 11, or 255 for none (R75, R77, spec 11). -/
def State.cmdSetAlternate (s : State) (station alternate : Nat) : State :=
  s.withStation station fun t i =>
    if h : alternate < 12 then
      s.stationDone t (t.entries.set i { t.entries[i] with alternate := some ⟨alternate, h⟩ })
    else if alternate = 255 then
      s.stationDone t (t.entries.set i { t.entries[i] with alternate := none })
    else s.endCommand { outcome := .refusedRange }

/-! ## PUBLISH PAGE (R82, R83) -/

/-- An argument of PUBLISH PAGE is one of its values or ALL (R82). -/
def selectorValid (arg count : Nat) : Bool := decide (arg < count) || decide (arg = 255)

/-- An argument of PUBLISH PAGE selects a value (spec 05, section 5.4). -/
def selects (arg value : Nat) : Bool := decide (arg = 255) || decide (arg = value)

/-- Whether the entry of number `n` is selected (R80, R83). -/
def selectsEntry (station language variant n : Nat) : Bool :=
  selects station (n / 12) && selects language (n % 12 / 3) && selects variant (n % 3)

/-- Flip a page entry's live slot. An absent entry is passed over (R83). -/
def flipPage (p : Option Page) : Option Page := p.map fun q => { q with live := !q.live }

/-- Every selected present entry has its live slot flipped (R83). -/
def publish (pages : List (Option Page)) (station language variant : Nat) : List (Option Page) :=
  pages.mapIdx fun n p => if selectsEntry station language variant n then flipPage p else p

/-- The number of entries a PUBLISH PAGE flips (R83). -/
def publishCount (pages : List (Option Page)) (station language variant : Nat) : Nat :=
  (List.range pages.length).countP fun n =>
    selectsEntry station language variant n && ((pages[n]?).getD none).isSome

/-- PUBLISH PAGE (R82, R83). -/
def State.cmdPublishPage (s : State) (station language variant : Nat) : State :=
  if s.isReady = false then s.endCommand { outcome := .refusedState }
  else if (selectorValid station 12 && selectorValid language 4 && selectorValid variant 3) = false then
    s.endCommand { outcome := .refusedRange }
  else if s.muster.state ≠ .normal then s.endCommand { outcome := .refusedState }
  else
    let s1 : State :=
      { s with station := { s.station with pages := publish s.station.pages station language variant } }
    s1.endCommand
      { outcome := .done, detail := BitVec.ofNat 32 (publishCount s.station.pages station language variant) }

end Sys2Proof.Machine
end

