-- ==== Sys2Proof/Machine/Commands.lean ====
section
/-! DEFINITION. The command slot: the copy, the start of a command by its code, overruns (spec 09,
section 9.1), and the command codes (spec 11). -/

namespace Sys2Proof.Machine

open Sys2Proof

/-- A code that is not 0 and names no command ends UNKNOWN (R150). -/
def State.cmdUnknown (s : State) : State := s.endCommand { outcome := .unknown }

/-- The command that a code names starts, with the argument words of the copy (R147, spec 11). -/
def State.startCommand (s : State) (code : Nat) : State :=
  match code with
  | 1 => s.cmdDrillStart
  | 2 => s.cmdDrillEnd
  | 3 => s.cmdMusterOrder
  | 4 => s.cmdAllClear
  | 5 => s.cmdStanddownEnd
  | 6 => s.cmdStationClose (s.arg 0)
  | 7 => s.cmdStationOpen (s.arg 0)
  | 8 => s.cmdSetAlternate (s.arg 0) (s.arg 1)
  | 9 => s.cmdPublishPage (s.arg 0) (s.arg 1) (s.arg 2)
  | 10 => s.cmdOpenWindow
  | 11 => s.cmdCloseWindow
  | 12 => s.cmdSetClock (s.arg 0) (s.arg 1)
  | 13 => s.cmdScheduleShift (s.arg 0) (s.arg 1) (s.argWord 2).toInt
  | 14 => s.cmdCancelShift
  | 15 => s.cmdSetDefaultTarget (s.arg 0) (s.arg 1)
  | 16 => s.cmdRescan (s.arg 0)
  | 17 => s.cmdSetRing
  | _ => s.cmdUnknown

/-- The command word that the copy holds is acted on: code 0 starts nothing, a code in an IDLE slot
starts its command, and a code in an EXECUTING slot is an overrun (R147). -/
def State.actOnWord (s : State) : State :=
  let code := vecByte s.cmd.copy 0
  if code = 0 then s
  else if s.cmd.executing then
    { s with cmd := { s.cmd with overruns := satInc s.cmd.overruns, overrunMark := true } }
  else
    State.startCommand
      { s with cmd := { s.cmd with executing := true, overrunMark := false, seqInHand := vecByte s.cmd.copy 1 } }
      code.toNat

/-- A line that holds the command slot is delivered: the copy takes the enabled bytes of the command
word and the argument words, and the command word is acted on if a byte of it was enabled (R147). The
bytes of the result word are not taken (R21). -/
def State.deliverSlot (s : State) (w : WriteLine) : State :=
  let s1 : State := { s with cmd := { s.cmd with copy := mergeBytes s.cmd.copy 0 w } }
  if anyEnabled w.en 0 4 then s1.actOnWord else s1

end Sys2Proof.Machine
end

