-- ==== Sys2Proof/Machine/MemoryPath.lean ====
section
/-! DEFINITION. The memory path: requests at the PSP, delivery of accepted writes, the queues, the read
trackers and own reads, and the arbiter (spec 01, spec 02 section 2.3). -/

namespace Sys2Proof.Machine

open Sys2Proof

/-! ## Writes at the PSP (R2, R20 to R22) -/

/-- A line of the control block is delivered by its area: line 0 holds the command slot, line 1 the ring
descriptor; the other areas have no consumer (R21, spec 11). -/
def State.deliverControl (s : State) (k : Nat) (w : WriteLine) : State :=
  match k with
  | 0 => s.deliverSlot w
  | 1 => s.deliverRing w
  | _ => s

/-- The number of a line in a window that covers it. -/
def indexIn (w : Option Window) (a : Addr) : Nat :=
  match w with
  | some v => v.lineIndex a
  | none => 0

/-- An accepted line is delivered to the consumer of its window (R18, R20), and touches a rescan read in
flight (R128). -/
def State.deliverLine (s : State) (seq : Nat) (a : Addr) (w : WriteLine) : State :=
  match s.cfg.classOf a with
  | .control => s.deliverControl (indexIn s.cfg.controlWindow a) w
  | .programme =>
    let k := indexIn s.cfg.programme a
    (s.touchScan .programme k w.en).deliverProgramme k w
  | .segment =>
    let k := indexIn s.cfg.segment a
    (s.touchScan .segments k w.en).deliverSegments k w
  | .cabin =>
    let k := indexIn s.cfg.cabin a
    (s.touchScan .cabins k w.en).deliverCabin k w seq
  | .protect => s
  | .plain => s

/-- The lines of a write with their addresses, in address order (R1, R2). For a write that wraps past the top of
the address space the model takes this as the request's own order, the top lines first (log 45). -/
def addressed (first : Addr) (lines : List WriteLine) : List (Addr × WriteLine) :=
  lines.mapIdx fun i w => (nthLine first i, w)

/-- The PWQ entry of a line of a write of sequence number `seq` (spec 01, section 1.2). -/
def pwqEntryOf (seq : Nat) (q : Addr × WriteLine) : PwqEntry :=
  { addr := q.1, data := q.2.data, en := q.2.en, seq }

/-- Free entries of the PWQ (R3). -/
def Path.pwqFree (p : Path) : Nat := Config.pwqSize - p.pwq.length

/-- The lines of an accepted write join the tail of the PWQ together (R2, R5). -/
def State.enqueueWrite (s : State) (l : List (Addr × WriteLine)) : State :=
  { s with path := { s.path with
      pwq := s.path.pwq ++ l.map (pwqEntryOf s.path.seq)
      seq := s.path.seq + 1 } }

/-- An accepted write: its lines take PWQ entries and are delivered in address order (R2, R20). -/
def State.acceptWrite (s : State) (l : List (Addr × WriteLine)) : State :=
  l.foldl (fun t q => t.deliverLine s.path.seq q.1 q.2) ((s.answerPsp .accept).enqueueWrite l)

/-- A WRITE arrives at the PSP: RETRY until start-up has ended, then the protection check, then RETRY for
want of PWQ entries, then acceptance (R1, R2, R22). -/
def State.writeArrives (s : State) (first : Addr) (lines : List WriteLine) : State :=
  if s.started = false then s.answerPsp .retry
  else
    let l := addressed first lines
    match s.protectionCheck (l.map (·.1)) with
    | some (reason, subject) => (s.answerPsp .accept).countDrop reason subject
    | none => if s.path.pwqFree < l.length then s.answerPsp .retry else s.acceptWrite l

/-- A WRITE of one line of a window arrives, where the window has that line (log 3). A disabled window
matches no line, so that no such write exists (R16). -/
def State.windowWrite (s : State) (w : Option Window) (k : Nat) (line : WriteLine) : State :=
  if s.started = false then s.answerPsp .retry
  else
    match w with
    | some v => if k < v.lines then s.writeArrives (nthLine v.base k) [line] else s
    | none => s

/-- The line of a whole command slot write: command word and six argument words (R147, log 4). -/
def slotLine (code seq : Byte) (args : List Word) : WriteLine :=
  { data := lineOf ([code, seq, 0, 0] ++ args.flatMap bytes32), en := enablesAt 0 28 }

/-- A WRITE of the whole command slot arrives, with a command code, a sequence number and argument words
(log 4). -/
def State.commandWrite (s : State) (code seq : Byte) (args : List Word) : State :=
  s.writeArrives (s.cfg.control.getD 0) [slotLine code seq args]

/-- The line of a head-index write: offsets 0x48 and 0x49 of the control block (spec 11). -/
def headLine (head : BitVec 16) (enLow enHigh : Bool) : WriteLine :=
  { data := lineAt 8 (bytes16 head)
    en := Vector.ofFn fun i => (decide (i.val = 8) && enLow) || (decide (i.val = 9) && enHigh) }

/-! ## Reads at the PSP (R5, R6, R9) -/

/-- The line of a read at its acceptance, by its resolution (R5, R6). -/
def State.newLine (s : State) (tag : Tag) (a : Addr) (res : Resolution) : ReadLine :=
  match res with
  | .fill => { addr := a, res := .fill, st := .arrived (s.fillOf tag) }
  | .pass => { addr := a, res := .pass, st := startState s.path.pwq a }
  | .subst b => { addr := a, res := .subst b, st := startState s.path.pwq b }

/-- Resolve the next line of a read and add it to the lines so far (R5). -/
def takeReadLine (tag : Tag) (acc : State × List ReadLine) (a : Addr) : State × List ReadLine :=
  let q := acc.1.resolveLine tag a
  (q.1, acc.2 ++ [q.1.newLine tag a q.2])

/-- The lines of a read, resolved in address order (R5). For a read that wraps past the top of the address
space the model takes this as the request's own order (log 45). -/
def State.resolveRead (s : State) (tag : Tag) (first : Addr) (count : Nat) : State × List ReadLine :=
  ((List.range count).map (nthLine first)).foldl (takeReadLine tag) (s, [])

/-- A free read tracker, the lowest-numbered one (R5, log 6). -/
def Path.freeTracker (p : Path) : Option (Fin 8) := (List.finRange 8).find? fun t => p.trackers[t].isNone

/-- A READ arrives at the PSP: RETRY until start-up has ended or if no tracker is free, else it is
accepted into a free tracker (R1, R5). -/
def State.readArrives (s : State) (tag : Tag) (first : Addr) (count : Nat) : State :=
  if s.started = false then s.answerPsp .retry
  else
    match s.path.freeTracker with
    | none => s.answerPsp .retry
    | some t =>
      let q := s.resolveRead tag first count
      let tracker : Tracker := { tag, seq := s.path.seq, lines := q.2, failed := false }
      { q.1 with path := { q.1.path with
          trackers := q.1.path.trackers.set t (some tracker), seq := s.path.seq + 1 } }

/-- Whether a line is ARRIVED. -/
def LineState.isArrived : LineState → Bool
  | .arrived _ => true
  | _ => false

/-- Whether a line is ISSUED. -/
def LineState.isIssued : LineState → Bool
  | .issued _ => true
  | _ => false

/-- A read is complete: all its lines ARRIVED, or failed with none ISSUED (R7, R8). -/
def Tracker.complete (t : Tracker) : Bool :=
  if t.failed then t.lines.all fun l => !l.st.isIssued else t.lines.all fun l => l.st.isArrived

/-- The data of a line that has arrived. -/
def ReadLine.arrivedData (l : ReadLine) : Option LineData :=
  match l.st with
  | .arrived d => some d
  | _ => none

/-- The answer of a complete read (R9). -/
def Tracker.answer (t : Tracker) : PspAnswer :=
  if t.failed then .error else .data (t.lines.filterMap ReadLine.arrivedData)

/-- Whether an earlier-accepted read with the same tag is still unanswered (R9). -/
def Path.earlierRead (p : Path) (t : Tracker) : Bool :=
  p.trackers.toList.any fun o =>
    match o with
    | some u => decide (u.tag = t.tag) && decide (u.seq < t.seq)
    | none => false

/-- The read in tracker `i` is answered if it is complete and no earlier read of its tag is unanswered;
its tracker becomes free (R9). -/
def State.answerRead (s : State) (i : Fin 8) : State :=
  match s.path.trackers[i] with
  | some t =>
    if t.complete && !s.path.earlierRead t then
      State.answerPsp { s with path := { s.path with trackers := s.path.trackers.set i none } } t.answer
    else s
  | none => s

/-! ## The PWQ's and IWQ's heads leave (R4, R11) -/

/-- The PWQ head leaves, and every line held behind it is released (R4, R6). -/
def Path.popPwq (p : Path) (e : PwqEntry) : Path :=
  Path.releaseAll { p with pwq := p.pwq.tail, pwqTimer := none } e

/-- The outstanding PWQ head leaves by DONE, or by ERROR or timeout with a fault counted and reported
(R4). -/
def State.pwqLeaves (s : State) (ok : Bool) : State :=
  match s.path.pwq, s.path.pwqTimer with
  | e :: _, some _ =>
    let s1 : State := { s with path := s.path.popPwq e }
    if ok then s1 else s1.countMemFault.hand (s1.mkNotice .memoryFault false e.addr 1)
  | _, _ => s

/-- The outstanding IWQ head leaves by DONE, or by ERROR or timeout with a fault counted (R11). -/
def State.iwqLeaves (s : State) (ok : Bool) : State :=
  match s.path.iwq, s.path.iwqTimer with
  | _ :: rest, some _ =>
    let s1 : State := { s with path := { s.path with iwq := rest, iwqTimer := none } }
    if ok then s1 else s1.countMemFault
  | _, _ => s

/-! ## Answers to read lines (R7, R8) -/

/-- Set the state of line `l` of a tracker. -/
def Tracker.setLine (t : Tracker) (l : Nat) (st : LineState) : Tracker :=
  { t with lines := t.lines.modify l fun q => { q with st := st } }

/-- Put a busy tracker back. -/
def State.setTracker (s : State) (i : Fin 8) (t : Tracker) : State :=
  { s with path := { s.path with trackers := s.path.trackers.set i (some t) } }

/-- Whether a line read by a tag is rewritten by the Cabin unit: a CORRIDOR tag and class CABIN; with the
line's number in the cabin window (R18, R135). -/
def State.cabinLineOf (s : State) (tag : Tag) (a : Addr) : Option Nat :=
  if s.cfg.tags[tag] = .corridor ∧ s.cfg.classOf a = .cabin then some (indexIn s.cfg.cabin a) else none

/-- Memory answers line `l` of tracker `i` with data: the line becomes ARRIVED, after any rewriting by
the Cabin unit, which notes the observed refresh (R7, R135). -/
def State.lineData (s : State) (i : Fin 8) (l : Nat) (d : LineData) : State :=
  match s.path.trackers[i] with
  | some t =>
    match t.lines[l]? with
    | some q =>
      if q.st.isIssued then
        match s.cabinLineOf t.tag q.addr with
        | some k => (s.setTracker i (t.setLine l (.arrived (s.rewriteCabinLine k d)))).observeLine k t.seq
        | none => s.setTracker i (t.setLine l (.arrived d))
      else s
    | none => s
  | none => s

/-- A line in HELD or READY of a read that has failed becomes DROPPED (R8). -/
def dropWaiting (q : ReadLine) : ReadLine :=
  match q.st with
  | .held _ | .ready => { q with st := .dropped }
  | _ => q

/-- A read whose pass-through line `l` has failed (R8). -/
def Tracker.fail (t : Tracker) (l : Nat) : Tracker :=
  { t with lines := (t.setLine l .failed).lines.map dropWaiting, failed := true }

/-- Line `l` of tracker `i` fails, by ERROR or timeout: a substituted line becomes fill and is counted as
a source fault; a pass-through line fails the read (R8, R44). -/
def State.lineFails (s : State) (i : Fin 8) (l : Nat) : State :=
  match s.path.trackers[i] with
  | some t =>
    match t.lines[l]? with
    | some q =>
      if q.st.isIssued then
        match q.res with
        | .subst b => (s.setTracker i (t.setLine l (.arrived (s.fillOf t.tag)))).sourceFault t.tag b
        | .pass => (s.setTracker i (t.fail l)).countMemFault
        -- A fill line is never issued (R5).
        | .fill => s
      else s
    | none => s
  | none => s

/-! ## Own reads (R10) -/

/-- Whether a line of an own read is still HELD, READY or ISSUED (R10). -/
def LineState.inFlight : LineState → Bool
  | .held _ | .ready | .issued _ => true
  | .arrived _ | .failed | .dropped => false

/-- What a finished own-read line hands over: its data, or none where it failed (R10). -/
def OwnLine.handed (l : OwnLine) : Option LineData :=
  match l.st with
  | .arrived d => some d
  | _ => none

/-- The requester that an own-read tracker serves acts on the hand-over (R10, R101, R129). -/
def State.handOver (s : State) (k : Fin 2) (lines : List (Option LineData)) : State :=
  if k = 0 then s.routeHandOver lines else s.scanHandOver lines

/-- The lines of own-read tracker `k` after an answer: the tracker hands over and is free when no line
remains in flight (R10). -/
def State.setOwn (s : State) (k : Fin 2) (lines : List OwnLine) : State :=
  if lines.any fun l => l.st.inFlight then
    { s with path := { s.path with own := s.path.own.set k (some lines) } }
  else
    State.handOver { s with path := { s.path with own := s.path.own.set k none } } k (lines.map OwnLine.handed)

/-- Line `l` of own-read tracker `k` is answered with data, or fails by ERROR or timeout with a fault
counted (R10). -/
def State.ownLineAnswer (s : State) (k : Fin 2) (l : Nat) (d : Option LineData) : State :=
  match s.path.own[k] with
  | some lines =>
    match lines[l]? with
    | some q =>
      if q.st.isIssued then
        match d with
        | some v => s.setOwn k (lines.modify l fun q => { q with st := .arrived v })
        | none => s.countMemFault.setOwn k (lines.modify l fun q => { q with st := .failed })
      else s
    | none => s
  | none => s

/-! ## Timeouts (R12) -/

/-- A request's timer has reached the memory timeout (R12). -/
def State.timedOut (s : State) (t : Nat) : Bool := decide (s.cfg.timing.memoryTenths ≤ t)

/-- A line's timer has reached the memory timeout (R12). -/
def State.lineTimedOut (s : State) (st : LineState) : Bool :=
  match st with
  | .issued t => s.timedOut t
  | _ => false

/-- The state of line `l` of read tracker `i`. -/
def Path.readState (p : Path) (i : Fin 8) (l : Nat) : Option LineState :=
  p.trackers[i].bind fun t => (t.lines[l]?).map (·.st)

/-- The state of line `l` of own-read tracker `k`. -/
def Path.ownState (p : Path) (k : Fin 2) (l : Nat) : Option LineState :=
  p.own[k].bind fun lines => (lines[l]?).map (·.st)

/-- A request whose timer has reached the memory timeout is taken as answered ERROR (R12). -/
def State.timeout (s : State) (r : MspRef) : State :=
  match r with
  | .pwqHead => if s.path.pwqTimer.any s.timedOut then s.pwqLeaves false else s
  | .iwqHead => if s.path.iwqTimer.any s.timedOut then s.iwqLeaves false else s
  | .readLine i l => if (s.path.readState i l.val).any s.lineTimedOut then s.lineFails i l.val else s
  | .ownLine k l =>
    if (s.path.ownState k l.val).any s.lineTimedOut then s.ownLineAnswer k l.val none else s

/-! ## The arbiter (R13, R14) -/

/-- Whether a tag is of class SCANOUT (R13, R19). -/
def State.isScanout (s : State) (tag : Tag) : Bool := (s.boundScreen tag).isSome

/-- Whether a line is READY. -/
def LineState.isReady : LineState → Bool
  | .ready => true
  | _ => false

/-- The busy trackers with a READY line, of SCANOUT tags or of other tags (R13). -/
def State.readyTrackers (s : State) (scanout : Bool) : List (Fin 8 × Tracker) :=
  (List.finRange 8).filterMap fun i =>
    match s.path.trackers[i] with
    | some t =>
      if s.isScanout t.tag = scanout ∧ (t.lines.any fun l => l.st.isReady) = true then some (i, t) else none
    | none => none

/-- Whether the IWQ head can be offered to the arbiter (R11). -/
def Path.iwqOffered (p : Path) : Bool := decide (p.iwq ≠ []) && p.iwqTimer.isNone

/-- Whether the PWQ head can be offered to the arbiter (R3). -/
def Path.pwqOffered (p : Path) : Bool := decide (p.pwq ≠ []) && p.pwqTimer.isNone

/-- Whether an own-read line is READY (R13). -/
def Path.ownReady (p : Path) : Bool :=
  p.own.toList.any fun o =>
    match o with
    | some lines => lines.any fun l => l.st.isReady
    | none => false

/-- Whether a source has work (R13). -/
def State.hasWork (s : State) : Source → Bool
  | .scanout => decide (s.readyTrackers true ≠ [])
  | .otherReads => decide (s.readyTrackers false ≠ [])
  | .pwqHead => s.path.pwqOffered
  | .own => s.path.iwqOffered || s.path.ownReady

/-- Whether a source stands in the high ring; the own source does so outside NORMAL (R13). -/
def State.inHighRing (s : State) : Source → Bool
  | .scanout => true
  | .otherReads => false
  | .pwqHead => false
  | .own => outsideNormal s.muster.state

/-- The fixed cycle of sources, starting after a ring's last-granted source (R14). -/
def cycleAfter : Option Source → List Source
  | none => [.scanout, .otherReads, .pwqHead, .own]
  | some .scanout => [.otherReads, .pwqHead, .own, .scanout]
  | some .otherReads => [.pwqHead, .own, .scanout, .otherReads]
  | some .pwqHead => [.own, .scanout, .otherReads, .pwqHead]
  | some .own => [.scanout, .otherReads, .pwqHead, .own]

/-- The source a ring grants, round-robin (R14). -/
def State.ringPick (s : State) (high : Bool) : Option Source :=
  (cycleAfter (if high then s.path.lastHigh else s.path.lastLow)).find? fun c =>
    decide (s.inHighRing c = high) && s.hasWork c

/-- The grant: the low ring after eight high grants if it has work, else the high ring if it has work,
else the low ring. The answer holds the ring and the source (R14). -/
def State.arbitrate (s : State) : Option (Bool × Source) :=
  match s.ringPick true, s.ringPick false with
  | some h, some l => if s.path.highCount = 8 then some (false, l) else some (true, h)
  | some h, none => some (true, h)
  | none, some l => some (false, l)
  | none, none => none

/-- The ring's last-granted source and the count of high-ring grants after a grant (R14). -/
def Path.noteGrant (p : Path) (high : Bool) (c : Source) : Path :=
  if high then { p with lastHigh := some c, highCount := min (p.highCount + 1) 8 }
  else { p with lastLow := some c, highCount := 0 }

/-- The oldest-accepted of some trackers (R13). -/
def oldestTracker : List (Fin 8 × Tracker) → Option (Fin 8 × Tracker)
  | [] => none
  | q :: rest =>
    match oldestTracker rest with
    | some m => if m.2.seq < q.2.seq then some m else some q
    | none => some q

/-- The number of the lowest-addressed of some lines, each given with its number and address (R13). -/
def lowestLine : List (Nat × Addr) → Option Nat
  | [] => none
  | q :: rest => some (rest.foldl (fun m r => if r.2.toNat < m.2.toNat then r else m) q).1

/-- The READY lines of a tracker, by their own addresses as numbers (R13, log 8). -/
def Tracker.readyLines (t : Tracker) : List (Nat × Addr) :=
  (List.range t.lines.length).filterMap fun i =>
    match t.lines[i]? with
    | some q => if q.st.isReady then some (i, q.addr) else none
    | none => none

/-- The READY lines of an own read (R13). -/
def ownReadyLines (lines : List OwnLine) : List (Nat × Addr) :=
  (List.range lines.length).filterMap fun i =>
    match lines[i]? with
    | some q => if q.st.isReady then some (i, q.addr) else none
    | none => none

/-- The line number as the MSP refers to it. -/
def lineRef (l : Nat) : Fin 4 := ⟨l % 4, Nat.mod_lt l (by decide)⟩

/-- Issue the READY line that the read source takes: the lowest-addressed of the oldest tracker (R13). -/
def State.issueRead (s : State) (scanout : Bool) : State :=
  match oldestTracker (s.readyTrackers scanout) with
  | some (i, t) =>
    match lowestLine t.readyLines with
    | some l =>
      match t.lines[l]? with
      | some q => (s.setTracker i (t.setLine l (.issued 0))).issueMsp (.read (.readLine i (lineRef l)) q.source)
      | none => s
    | none => s
  | none => s

/-- Issue the PWQ head (R3). -/
def State.issuePwq (s : State) : State :=
  match s.path.pwq with
  | e :: _ =>
    State.issueMsp { s with path := { s.path with pwqTimer := some 0 } } (.write .pwqHead e.addr e.data e.en)
  | [] => s

/-- Issue the IWQ head (R11). -/
def State.issueIwq (s : State) : State :=
  match s.path.iwq with
  | e :: _ =>
    State.issueMsp { s with path := { s.path with iwqTimer := some 0, iwqNext := false } }
      (.write .iwqHead e.addr e.data e.en)
  | [] => s

/-- Issue the lowest-addressed READY line of own-read tracker `k` (R13). -/
def State.issueOwnLine (s : State) (k : Fin 2) : State :=
  match s.path.own[k] with
  | some lines =>
    match lowestLine (ownReadyLines lines) with
    | some l =>
      match lines[l]? with
      | some q =>
        State.issueMsp
          { s with path := { s.path with
              own := s.path.own.set k (some (lines.modify l fun q => { q with st := .issued 0 }))
              iwqNext := true } }
          (.read (.ownLine k (lineRef l)) q.addr)
      | none => s
    | none => s
  | none => s

/-- Whether own-read tracker `k` has a READY line (R13). -/
def Path.ownTrackerReady (p : Path) (k : Fin 2) : Bool :=
  match p.own[k] with
  | some lines => lines.any fun l => l.st.isReady
  | none => false

/-- Issue from the own source: the IWQ head and own-read lines take turns when both have work; tracker 0
goes before tracker 1 (R13, log 9). -/
def State.issueOwn (s : State) : State :=
  if s.path.iwqOffered && (s.path.iwqNext || !s.path.ownReady) then s.issueIwq
  else if s.path.ownTrackerReady 0 then s.issueOwnLine 0
  else s.issueOwnLine 1

/-- Issue the request of the granted source (R13). -/
def State.issueFrom (s : State) : Source → State
  | .scanout => s.issueRead true
  | .otherReads => s.issueRead false
  | .pwqHead => s.issuePwq
  | .own => s.issueOwn

/-- The arbiter grants one request, which is issued (R13, R14). With no work nothing is granted. -/
def State.grant (s : State) : State :=
  match s.arbitrate with
  | some (high, c) => State.issueFrom { s with path := s.path.noteGrant high c } c
  | none => s

end Sys2Proof.Machine
end

