-- ==== Sys2Proof/Machine/ExecCommands.lean ====
section
/-! DEFINITION. The meanings of the command slot's commands. Each is the arrival of a WRITE of the whole
slot with the command's code, its sequence number and its argument words (log 4): the command starts where
the slot is IDLE and is an overrun where it is EXECUTING (R147). -/

namespace Sys2Proof.Machine

open Sys2Proof

/-- DRILL_START: command code 1 (R63, spec 11). -/
def execDrillStart (_tag : Tag) (seq : Byte) (s : State) : Out :=
  commit s (s.commandWrite 1 seq [])

/-- DRILL_END: command code 2 (R64, spec 11). -/
def execDrillEnd (_tag : Tag) (seq : Byte) (s : State) : Out :=
  commit s (s.commandWrite 2 seq [])

/-- MUSTER_ORDER: command code 3 (R61, spec 11). -/
def execMusterOrder (_tag : Tag) (seq : Byte) (s : State) : Out :=
  commit s (s.commandWrite 3 seq [])

/-- ALL_CLEAR: command code 4 (R65, spec 11). -/
def execAllClear (_tag : Tag) (seq : Byte) (s : State) : Out :=
  commit s (s.commandWrite 4 seq [])

/-- STANDDOWN_END: command code 5 (R67, spec 11). -/
def execStanddownEnd (_tag : Tag) (seq : Byte) (s : State) : Out :=
  commit s (s.commandWrite 5 seq [])

/-- STATION_CLOSE: command code 6 (R75, R76, R78, spec 11). -/
def execStationClose (_tag : Tag) (seq : Byte) (station : Word) (s : State) : Out :=
  commit s (s.commandWrite 6 seq [station])

/-- STATION_OPEN: command code 7 (R75, R76, R78, spec 11). -/
def execStationOpen (_tag : Tag) (seq : Byte) (station : Word) (s : State) : Out :=
  commit s (s.commandWrite 7 seq [station])

/-- SET_ALTERNATE: command code 8 (R75, R77, R78, spec 11). -/
def execSetAlternate (_tag : Tag) (seq : Byte) (station alternate : Word) (s : State) : Out :=
  commit s (s.commandWrite 8 seq [station, alternate])

/-- PUBLISH_PAGE: command code 9 (R82, R83, spec 11). -/
def execPublishPage (_tag : Tag) (seq : Byte) (station language variant : Word) (s : State) : Out :=
  commit s (s.commandWrite 9 seq [station, language, variant])

/-- OPEN_WINDOW: command code 10 (R25, spec 11). -/
def execOpenWindow (_tag : Tag) (seq : Byte) (s : State) : Out :=
  commit s (s.commandWrite 10 seq [])

/-- CLOSE_WINDOW: command code 11 (R26, R28, spec 11). -/
def execCloseWindow (_tag : Tag) (seq : Byte) (s : State) : Out :=
  commit s (s.commandWrite 11 seq [])

/-- SET_CLOCK: command code 12 (R110, spec 11). -/
def execSetClock (_tag : Tag) (seq : Byte) (day second : Word) (s : State) : Out :=
  commit s (s.commandWrite 12 seq [day, second])

/-- SCHEDULE_SHIFT: command code 13 (R111, spec 11). -/
def execScheduleShift (_tag : Tag) (seq : Byte) (day minute shift : Word) (s : State) : Out :=
  commit s (s.commandWrite 13 seq [day, minute, shift])

/-- CANCEL_SHIFT: command code 14 (R112, spec 11). -/
def execCancelShift (_tag : Tag) (seq : Byte) (s : State) : Out :=
  commit s (s.commandWrite 14 seq [])

/-- SET_DEFAULT_TARGET: command code 15 (R151, spec 11). -/
def execSetDefaultTarget (_tag : Tag) (seq : Byte) (screen target : Word) (s : State) : Out :=
  commit s (s.commandWrite 15 seq [screen, target])

/-- RESCAN: command code 16 (R126, R127, spec 11). -/
def execRescan (_tag : Tag) (seq : Byte) (table : Word) (s : State) : Out :=
  commit s (s.commandWrite 16 seq [table])

/-- SET_RING: command code 17 (R152, spec 11). -/
def execSetRing (_tag : Tag) (seq : Byte) (s : State) : Out :=
  commit s (s.commandWrite 17 seq [])

/-- UNKNOWN_COMMAND: a code that is not 0 and names no command (R150). -/
def execUnknownCommand (_tag : Tag) (seq code : Byte) (s : State) : Out := commit s (s.commandWrite code seq [])

end Sys2Proof.Machine
end

