-- ==== Sys2Proof/Machine/LineFilters.lean ====
section
/-! DEFINITION. The samplers of the discrete input lines and the consumers of their levels (spec 04,
section 4.1). -/

namespace Sys2Proof.Machine

open Sys2Proof

/-- The sampler of an input line. -/
def Lines.get (ls : Lines) : InputLine → Filter
  | .bell => ls.bell
  | .muster => ls.muster
  | .maint => ls.maint
  | .fire n => ls.fire[n]

/-- Replace the sampler of an input line. -/
def Lines.put (ls : Lines) (line : InputLine) (f : Filter) : Lines :=
  match line with
  | .bell => { ls with bell := f }
  | .muster => { ls with muster := f }
  | .maint => { ls with maint := f }
  | .fire n => { ls with fire := ls.fire.set n f }

/-- The debounce time of a line in ms: 200 for MUSTER and MAINT, 100 for FIRE ZONE lines, none for BELL
(R51). -/
def debounceMs : InputLine → Option Nat
  | .bell => none
  | .muster => some 200
  | .maint => some 200
  | .fire _ => some 100

/-- A change of the raw level: the deglitch count starts again from zero (R50). -/
def Filter.rawChange (f : Filter) (level : Bool) : Filter :=
  if f.raw = level then f else { f with raw := level, degCount := 0 }

/-- The raw level of a line changes (R50). -/
def State.rawChange (s : State) (line : InputLine) (level : Bool) : State :=
  { s with lines := s.lines.put line ((s.lines.get line).rawChange level) }

/-- The raw level has differed from the deglitched level for 20 ms (R50). -/
def Filter.degDue (f : Filter) : Bool := decide (f.raw ≠ f.deg) && decide (Config.deglitchMs ≤ f.degCount)

/-- The deglitched level takes the raw level; the debounce count starts again from zero (R50, R51). -/
def Filter.deglitched (f : Filter) : Filter := { f with deg := f.raw, degCount := 0, debCount := 0 }

/-- A change of the deglitched BELL level after start-up: a rise or a fall (R54, R55). -/
def State.bellChange (s : State) (level : Bool) : State :=
  if level then { s with muster := s.muster.bellRise } else s.takeBellFall

/-- A deglitch count reaches 20 ms: the deglitched level changes, and a change of BELL goes to the
recogniser once start-up has ended (R50 to R52). -/
def State.deglitch (s : State) (line : InputLine) : State :=
  let f := s.lines.get line
  if f.degDue then
    let s1 : State := { s with lines := s.lines.put line f.deglitched }
    if line = .bell ∧ s.started = true then s1.bellChange f.raw else s1
  else s

/-- The deglitched level has differed from the debounced level for the line's debounce time (R51). -/
def Filter.debDue (f : Filter) (line : InputLine) : Bool :=
  match debounceMs line with
  | some ms => decide (f.deg ≠ f.deb) && decide (ms ≤ f.debCount)
  | none => false

/-- The debounced level takes the deglitched level (R51). -/
def Filter.debounced (f : Filter) : Filter := { f with deb := f.deg, debCount := 0 }

/-- The consumer of a change of a debounced level after start-up (R51): MUSTER orders a muster on a rise
and does nothing on a fall (R61, R62), MAINT closes the maintenance window on a fall (R27), a FIRE ZONE
changes availability (R89). -/
def State.levelChange (s : State) (line : InputLine) (level : Bool) : State :=
  match line with
  | .bell => s
  | .muster => if level then s.orderMuster .line else s
  | .maint => if level then s else s.maintFall
  | .fire n => if s.isReady then s.zoneChange n level else s

/-- A debounce count reaches the debounce time: the debounced level changes and goes to its consumer
once start-up has ended (R51, R52). -/
def State.debounce (s : State) (line : InputLine) : State :=
  let f := s.lines.get line
  if f.debDue line then
    let s1 : State := { s with lines := s.lines.put line f.debounced }
    if s.started then s1.levelChange line f.deg else s1
  else s

end Sys2Proof.Machine
end

