-- ==== Sys2Proof/Machine/Timebase.lean ====
section
/-! DEFINITION. Time: one tick is a tenth of a millisecond, and every tenth tick is a tick of the 1 ms
time base. A timer holds at its limit until its expiry is taken (log 2). -/

namespace Sys2Proof.Machine

open Sys2Proof

/-- A running timer advances by one and holds at its limit; a stopped one stays stopped. -/
def tickTimer (limit : Nat) (t : Option Nat) : Option Nat := t.map fun n => min (n + 1) limit

/-- An outstanding line's timer advances (R12). -/
def LineState.tick (limit : Nat) : LineState → LineState
  | .issued t => .issued (min (t + 1) limit)
  | other => other

/-- The memory timers advance by one tenth (R12). -/
def Path.tick (limit : Nat) (p : Path) : Path :=
  { p with
    pwqTimer := tickTimer limit p.pwqTimer
    iwqTimer := tickTimer limit p.iwqTimer
    trackers := p.trackers.map (Option.map fun t =>
      { t with lines := t.lines.map fun q => { q with st := q.st.tick limit } })
    own := p.own.map (Option.map (List.map fun q => { q with st := q.st.tick limit })) }

/-- A sampler's counts advance by one millisecond: each counts while its levels differ (R50, R51). A
millisecond in which the raw level changed counts whole, at its end, with the level that then stands, the
model's choice (log 51). -/
def Filter.tick (debMs : Nat) (f : Filter) : Filter :=
  { f with
    degCount := if f.raw ≠ f.deg then min (f.degCount + 1) Config.deglitchMs else 0
    debCount := if f.deg ≠ f.deb then min (f.debCount + 1) debMs else 0 }

/-- The samplers advance by one millisecond. -/
def Lines.tick (ls : Lines) : Lines :=
  { bell := ls.bell.tick 0
    muster := ls.muster.tick 200
    maint := ls.maint.tick 200
    fire := ls.fire.map (Filter.tick 100) }

/-- The Muster controller's timers advance by one millisecond (R56, R57, R66). -/
def MusterUnit.tick (standdownLimit : Nat) (m : MusterUnit) : MusterUnit :=
  { m with
    standdown := tickTimer standdownLimit m.standdown
    highTimer := tickTimer Config.longBlastMs m.highTimer
    gapTimer := tickTimer Config.gapMs m.gapTimer }

/-- A screen's dark timer advances by one millisecond (R45, R46). -/
def Screen.tick (limit : Nat) (sc : Screen) : Screen := { sc with dark := tickTimer limit sc.dark }

/-- The clock's phase counts while the clock is SET (R109). -/
def ProgUnit.tick (p : ProgUnit) : ProgUnit :=
  if p.clockSet then { p with phase := min (p.phase + 1) 1000 } else p

/-- One millisecond of the time base. The samplers run from the release of internal reset (R50, R52),
the uptime count and the other timers once start-up has ended (R164). -/
def State.msTick (s : State) : State :=
  if s.loader.phase = .reset then s
  else
    let s1 : State := { s with
      lines := s.lines.tick
      loader := { s.loader with sinceRelease := min (s.loader.sinceRelease + 1) Config.startUpMs } }
    if s.started then
      { s1 with
        time := { s1.time with uptimePhase := min (s1.time.uptimePhase + 1) 1000 }
        muster := s1.muster.tick s1.standdownLimit
        screen := { s1.screen with screens := s1.screen.screens.map (Screen.tick s1.cfg.timing.darkMs) }
        prog := s1.prog.tick
        cmd := { s1.cmd with maint := tickTimer s1.maintLimit s1.cmd.maint } }
    else s1

/-- One tenth of a millisecond. Internal reset holds the part, its time base with it (R166, log 13). -/
def State.tick (s : State) : State :=
  if s.loader.phase = .reset then s
  else
    let s1 : State := { s with path := s.path.tick s.cfg.timing.memoryTenths }
    if s1.time.tenth < 9 then { s1 with time := { s1.time with tenth := s1.time.tenth + 1 } }
    else State.msTick { s1 with time := { s1.time with tenth := 0 } }

/-- The uptime second count increments every 1000 ms, and the Cabin unit notifies (R164, R143). -/
def State.uptimeTick (s : State) : State :=
  if s.started && decide (1000 ≤ s.time.uptimePhase) then
    State.notifyCabins { s with time := { s.time with uptime := s.time.uptime + 1, uptimePhase := 0 } }
  else s

end Sys2Proof.Machine
end

