-- ==== Sys2Proof/Machine/ExecEvents.lean ====
section
/-! DEFINITION. The meanings of the events of lines, timers and clocks, and of the Route engine's start. An
event whose occasion does not stand changes nothing (log 31). -/

namespace Sys2Proof.Machine

open Sys2Proof

/-- RAW_LINE_CHANGE: the raw level of a line changes (R50). -/
def execRawLineChange (line : InputLine) (level : Bool) (s : State) : Out := commit s (s.rawChange line level)

/-- DEGLITCH_EXPIRY: a deglitch count reaches 20 ms (R50, R54, R55). -/
def execDeglitchExpiry (line : InputLine) (s : State) : Out := commit s (s.deglitch line)

/-- DEBOUNCE_EXPIRY: a debounce count reaches the line's debounce time (R51). -/
def execDebounceExpiry (line : InputLine) (s : State) : Out := commit s (s.debounce line)

/-- LONG_BLAST: the high timer reaches 4000 ms (R56, R58). -/
def execLongBlast (s : State) : Out := commit s s.takeLongBlast

/-- GAP_TIMER_EXPIRY: the gap timer reaches 3000 ms (R57). -/
def execGapTimerExpiry (s : State) : Out := commit s s.gapExpiry

/-- STANDDOWN_TIMER_EXPIRY: the standdown timer reaches the standdown time (R66). -/
def execStanddownTimerExpiry (s : State) : Out := commit s s.standdownExpiry

/-- MAINT_TIMER_EXPIRY: the maintenance timer reaches the maintenance time (R27). -/
def execMaintTimerExpiry (s : State) : Out := commit s s.maintExpiry

/-- DARK_TIMER_EXPIRY: a screen's dark timer reaches the dark time (R46). -/
def execDarkTimerExpiry (screen : Fin 24) (s : State) : Out := commit s (s.darkExpiry screen.val)

/-- CLOCK_ADVANCE: the clock's phase reaches 1000 ms (R109, R113, R124). -/
def execClockAdvance (s : State) : Out := commit s s.clockTick

/-- UPTIME_SECOND: the uptime second count increments (R164, R143). -/
def execUptimeSecond (s : State) : Out := commit s s.uptimeTick

/-- ROUTE_COMPUTATION_START: the idle Route engine takes the head of its work list (R99). -/
def execRouteComputationStart (s : State) : Out := commit s s.startComputation

end Sys2Proof.Machine
end

