-- ==== Sys2Proof/Machine/ExecPath.lean ====
section
/-! DEFINITION. The meanings of the memory path's commands: requests at the PSP, grants, memory's answers
and timeouts, and the part's own turns (spec 01, spec 09). -/

namespace Sys2Proof.Machine

open Sys2Proof

/-- PSP_WRITE: a WRITE request arrives (R1, R2, R18, R20 to R22). -/
def execPspWrite (req : WriteReq) (s : State) : Out := commit s (s.writeArrives (lineAddr req.first) req.lines)

/-- HEAD_INDEX_WRITE: a WRITE of the head index arrives, at line 1 of the control block (R155, log 3). -/
def execHeadIndexWrite (_tag : Tag) (head : BitVec 16) (enLow enHigh : Bool) (s : State) : Out :=
  commit s (s.writeArrives (nthLine (s.cfg.control.getD 0) 1) [headLine head enLow enHigh])

/-- PROGRAMME_LINE_WRITE: a WRITE of a line of the programme table arrives (R116, log 3). -/
def execProgrammeLineWrite (_tag : Tag) (line : Fin 128) (w : WriteLine) (s : State) : Out :=
  commit s (s.windowWrite s.cfg.programme line.val w)

/-- SEGMENT_STATUS_WRITE: a WRITE of a line of the segment status table arrives (R87, log 3). -/
def execSegmentStatusWrite (_tag : Tag) (line : Fin 4) (w : WriteLine) (s : State) : Out :=
  commit s (s.windowWrite s.cfg.segment line.val w)

/-- CABIN_RECORD_WRITE: a WRITE of a line of the cabin table arrives (R134, log 3). -/
def execCabinRecordWrite (_tag : Tag) (line : Fin 256) (w : WriteLine) (s : State) : Out :=
  commit s (s.windowWrite s.cfg.cabin line.val w)

/-- PSP_READ: a READ request arrives (R5, R33 to R38). -/
def execPspRead (tag : Tag) (first : LineNo) (count : Nat) (s : State) : Out :=
  commit s (s.readArrives tag (lineAddr first) count)

/-- ARBITER_GRANT: the arbiter grants one request (R13, R14). -/
def execArbiterGrant (s : State) : Out := commit s s.grant

/-- Whether memory's answer to a write is DONE. -/
def WriteAnswer.ok : WriteAnswer → Bool
  | .done => true
  | .error => false

/-- PWQ_WRITE_ANSWER: memory answers the outstanding PWQ head (R4). -/
def execPwqWriteAnswer (a : WriteAnswer) (s : State) : Out := commit s (s.pwqLeaves (WriteAnswer.ok a))

/-- READ_LINE_DATA: memory answers an ISSUED line of a PSP read with data (R7, R135). -/
def execReadLineData (t : Fin 8) (l : Fin 4) (d : LineData) (s : State) : Out := commit s (s.lineData t l.val d)

/-- READ_LINE_ERROR: memory answers an ISSUED line of a PSP read ERROR (R8). -/
def execReadLineError (t : Fin 8) (l : Fin 4) (s : State) : Out := commit s (s.lineFails t l.val)

/-- READ_ANSWER: a complete read is answered at the PSP (R9). -/
def execReadAnswer (t : Fin 8) (s : State) : Out := commit s (s.answerRead t)

/-- The data of memory's answer to a read, none for ERROR. -/
def ReadAnswer.data? : ReadAnswer → Option LineData
  | .data d => some d
  | .error => none

/-- OWN_READ_LINE_ANSWER: memory answers an ISSUED line of an own read (R10). -/
def execOwnReadLineAnswer (k : Fin 2) (l : Fin 4) (a : ReadAnswer) (s : State) : Out :=
  commit s (s.ownLineAnswer k l.val (ReadAnswer.data? a))

/-- IWQ_WRITE_ANSWER: memory answers the outstanding IWQ head. The memory-fault count that a failure
changes sets no dirty mark (R11, R157). -/
def execIwqWriteAnswer (a : WriteAnswer) (s : State) : Out :=
  .next (settleWith false s (s.iwqLeaves (WriteAnswer.ok a)))

/-- MEMORY_TIMEOUT: a request's timer has reached the memory timeout (R12). A failure of the IWQ head sets
no dirty mark (R157). -/
def execMemoryTimeout (r : MspRef) (s : State) : Out :=
  .next (settleWith (decide (r ≠ .iwqHead)) s (s.timeout r))

/-- LATE_ANSWER: an answer to a write or a read that has timed out is discarded (R12). -/
def execLateAnswer (_a : LateAnswer) (s : State) : Out := .next s

/-- NOTICE_WRITER_TURN: the Notice writer takes its next turn (R154, R157, R158). -/
def execNoticeWriterTurn (s : State) : Out := commit s s.writerTurn

/-- A held result is placed once the IWQ has a free entry (R149). -/
def State.placeHeld (s : State) : State :=
  match s.cmd.held with
  | some r => if 0 < s.path.iwqFree then s.placeResult r else s
  | none => s

/-- RESULT_WORD_PLACEMENT: the Command unit places a held result (R149). -/
def execResultWordPlacement (s : State) : Out := commit s s.placeHeld

end Sys2Proof.Machine
end

