-- ==== Sys2Proof/Machine/Rom.lean ====
section
/-! DEFINITION. The configuration ROM: its reading and staging, the start-up tests, and the bringing of
staged contents into range (spec 10, sections 10.2 and 10.3, spec 11, section 11.5, and the CHECK rules of
R16, R19, R30 to R32, R72, R80, R86, R93, R132). -/

namespace Sys2Proof.Machine

open Sys2Proof

/-! ## Reading and staging (R161, R162, R170) -/

/-- The L bytes of records (R161). -/
def romRecords (rom : List Byte) : List Byte := (List.range (romLength rom)).map fun i => romByte rom (3 + i)

/-- The running sum of every byte from the signature through the last record byte, modulo 65536 (R161). -/
def romSum (rom : List Byte) : BitVec 16 :=
  (romRecords rom).foldl (fun sum b => sum + b.setWidth 16)
    ((romByte rom 0).setWidth 16 + (romByte rom 1).setWidth 16 + (romByte rom 2).setWidth 16)

/-- The stored sum, after the records (R161). -/
def romStoredSum (rom : List Byte) : BitVec 16 := field16 (romByte rom) (3 + romLength rom)

/-- Whether a body has a length that its type's layout allows (R170). -/
def bodyLengthGood (type : Nat) (body : List Byte) : Bool :=
  match type with
  | 1 => decide (body.length = 24)
  | 2 => decide (body.length % 2 = 0) && decide (2 ≤ body.length) && decide (body.length ≤ 128)
  | 3 => decide ((listByte body 0).toNat ≤ 24) && decide (body.length = 1 + 64 * (listByte body 0).toNat)
  | 4 => decide (body.length = 512)
  | 5 => decide (body.length = 24)
  | 6 => decide (body.length = 2304)
  | 7 => decide (2 ≤ body.length) && decide (body.length = 2 + 4 * (field16 (listByte body) 0).toNat)
  | 8 => decide (body.length = 10)
  | 9 => decide (body.length = 8)
  | 10 => decide (body.length = 6)
  | _ => false

/-- The known record types (R162, R170). -/
def typeKnown (type : Nat) : Bool := decide (1 ≤ type) && decide (type ≤ 10)

/-- What is staged of a body: of the segment attributes, those of segments 0 to 255 (R170). -/
def stagedBody (type : Nat) (body : List Byte) : List Byte := if type = 7 then body.take 1026 else body

/-- What the loading of the records leaves: the staging copy, SKIPPED, and whether a record was malformed
(R162). -/
structure Loaded where
  staging : List (Nat × List Byte) := []
  skipped : Bool := false
  malformed : Bool := false
deriving DecidableEq, Repr

/-- The staged body of a type, if any. -/
def stagedOf (staging : List (Nat × List Byte)) (type : Nat) : Option (List Byte) :=
  (staging.find? fun q => decide (q.1 = type)).map (·.2)

/-- Take the records one after another (R162). A record that runs past the end, or a known type's body of a
length that the type does not allow, is malformed (R170), also where its type is unknown or already
staged, which R162 leaves open (log 23). The fuel is more than the number of records. -/
def stageRecords : Nat → List Byte → Loaded → Loaded
  | 0, _, acc => acc
  | _ + 1, [], acc => acc
  | fuel + 1, type :: low :: high :: rest, acc =>
    let n := (high ++ low).toNat
    let body := rest.take n
    let t := type.toNat
    if rest.length < n ∨ (typeKnown t = true ∧ bodyLengthGood t body = false) then { acc with malformed := true }
    else if typeKnown t = false ∨ (stagedOf acc.staging t).isSome = true then
      stageRecords fuel (rest.drop n) { acc with skipped := true }
    else stageRecords fuel (rest.drop n) { acc with staging := acc.staging ++ [(t, stagedBody t body)] }
  | _ + 1, _, acc => { acc with malformed := true }

/-- The records of a ROM, staged (R162). -/
def loadRecords (rom : List Byte) : Loaded := stageRecords (romLength rom + 1) (romRecords rom) {}

/-- The reason that the start-up tests give, NONE where every test passes (R163). -/
def startReason (rom : List Byte) : StartReason :=
  if signatureGood (romByte rom 0) = false then .signature
  else if romSum rom ≠ romStoredSum rom then .sum
  else if (loadRecords rom).malformed then .format
  else .none

/-! ## Bringing into range (R163) -/

/-- A value brought into range, with whether that was noted CLAMPED. -/
structure Checked (α : Type) where
  value : α
  clamped : Bool := false

/-- A number clamped to a range (R163). -/
def clampTo (low high n : Nat) : Checked Nat :=
  if n < low then { value := low, clamped := true }
  else if high < n then { value := high, clamped := true }
  else { value := n }

/-- A number that is replaced where it is above its greatest value (R30, R86). -/
def replaceAbove (high other n : Nat) : Checked Nat :=
  if high < n then { value := other, clamped := true } else { value := n }

/-- A window cut to end at the last line of the address space (R16). -/
def cutWindow (w : Window) : Checked Window :=
  let room := (4294967296 - w.base.toNat) / 64
  if room < w.lines then { value := { w with lines := room }, clamped := true } else { value := w }

/-- Whether two windows share a line (R16). -/
def sharesLine (v w : Window) : Bool :=
  decide (v.base.toNat < w.base.toNat + 64 * w.lines) && decide (w.base.toNat < v.base.toNat + 64 * v.lines)

/-- The windows after CHECK, with what was noted (R16). -/
structure WindowCheck where
  protect : Option Window := none
  programme : Option Window := none
  segment : Option Window := none
  cabin : Option Window := none
  clamped : Bool := false
  overlap : Bool := false
deriving DecidableEq, Repr

/-- The enabled ones of some windows. -/
def enabledOf (l : List (Option Window)) : List Window := l.filterMap id

/-- A window is cut at the top, and disabled if it shares a line with an enabled earlier one (R16,
log 19). -/
def admitWindow (earlier : List (Option Window)) (w : Window) : Option Window :=
  if (enabledOf earlier).any (sharesLine (cutWindow w).value) then none else some (cutWindow w).value

/-- The window set record brought into range (R16). A cabin count of none is the missing record of
R163, which disables the cabin window. -/
def checkWindows (control : Addr) (body : List Byte) (cabinCount : Option Nat) : WindowCheck :=
  let b := listByte body
  let base := fun o => alignLine (field32 b o)
  let c : Option Window := some { base := control, lines := 64 }
  let rawProtect : Window := { base := base 0, lines := (field32 b 4).toNat }
  let rawProgramme : Window := { base := base 8, lines := 128 }
  let rawSegment : Window := { base := base 12, lines := 4 }
  let rawCabin : Option Window := cabinCount.map fun n => { base := base 16, lines := n / 2 + n % 2 }
  let protect := if rawProtect.lines = 0 then none else admitWindow [c] rawProtect
  let programme := admitWindow [c, protect] rawProgramme
  let segment := admitWindow [c, protect, programme] rawSegment
  let cabin := rawCabin.bind (admitWindow [c, protect, programme, segment])
  { protect, programme, segment, cabin
    clamped := (cutWindow rawProtect).clamped || (cutWindow rawProgramme).clamped ||
      (cutWindow rawSegment).clamped || rawCabin.any fun w => (cutWindow w).clamped
    overlap := (decide (rawProtect.lines ≠ 0) && protect.isNone) || programme.isNone || segment.isNone ||
      (rawCabin.isSome && cabin.isNone) }

/-- An entry of the tag class table (R19). -/
def checkTag (screens : Nat) (body : List Byte) (i : Nat) : Checked TagClass :=
  if body.length ≤ 2 * i then { value := .general }
  else
    match (listByte body (2 * i)).toNat with
    | 0 => { value := .general }
    | 1 => { value := .corridor }
    | 2 =>
      let bound := (listByte body (2 * i + 1)).toNat
      { value := .scanout bound, clamped := decide (screens ≤ bound) }
    | _ => { value := .general, clamped := true }

/-- A screen kind code (R30, R170). -/
def screenKindOf : Nat → Checked ScreenKind
  | 0 => { value := .wayfinding }
  | 1 => { value := .programme }
  | 2 => { value := .general }
  | _ => { value := .general, clamped := true }

/-- A pane kind code (R31, R170). -/
def paneKindOf : Nat → Option PaneKind
  | 0 => some .arrow
  | 1 => some .station
  | 2 => some .now
  | 3 => some .next
  | 4 => some .countdown
  | 5 => some .banner
  | _ => none

/-- A pane brought inside its frame of `cols` columns and `rows` rows, or removed (R31). -/
def checkPane (cols rows : Nat) (p : Pane) : Checked (Option Pane) :=
  if p.w = 0 ∨ p.h = 0 ∨ 64 < p.w ∨ 1024 < p.h ∨ cols ≤ p.x ∨ rows ≤ p.y then
    { value := none, clamped := true }
  else
    let q : Pane := { p with w := min p.w (cols - p.x), h := min p.h (rows - p.y) }
    { value := some q, clamped := decide (q ≠ p) }

/-- The pane record at an offset of a screen record (R31, R170). -/
def readPane (b : Nat → Byte) (o cols rows : Nat) : Checked (Option Pane) :=
  match paneKindOf (b o).toNat with
  | some kind => checkPane cols rows
      { kind, w := (b (o + 1)).toNat, x := (field16 b (o + 2)).toNat, y := (field16 b (o + 4)).toNat
        h := (field16 b (o + 6)).toNat }
  | none => { value := none, clamped := true }

/-- A stride: rounded down to a multiple of 64 and held between 64 and 32768 (R30). -/
def checkStride (n : Nat) : Checked Nat :=
  let v := min 32768 (max 64 (n / 64 * 64))
  { value := v, clamped := decide (v ≠ n) }

/-- A deck mask: a mask of 0 becomes the screen's own deck alone, which is not noted, and bits above deck 19
are cleared, which is (R30). That the mask is tested for 0 before bits are cleared is the model's reading
(log 20). -/
def checkDeckMask (mask : Word) (deck : Nat) : Checked (BitVec 20) :=
  if mask = 0 then { value := BitVec.ofNat 20 (2 ^ deck) }
  else { value := mask.setWidth 20, clamped := decide (2 ^ 20 ≤ mask.toNat) }

/-- Whether a frame region passes the top of the address space, and so is cut to end at its last line and
noted (R16). The region is that of the values brought into range (log 49). -/
def regionCut (base : Addr) (stride rows : Nat) : Bool := decide (4294967296 < base.toNat + rows * stride)

/-- A station index, or 0 where it is above 11 (R30). -/
def checkHome (n : Nat) : Checked StationIx :=
  if h : n < 12 then { value := ⟨n, h⟩ } else { value := 0, clamped := true }

/-- A screen record with its default target, brought into range (R16, R30, R31). `b` gives its 64 bytes. -/
def checkScreen (b : Nat → Byte) : Checked (ScreenConf × Nat) :=
  let kind := screenKindOf (b 0).toNat
  let home := checkHome (b 1).toNat
  let language := replaceAbove 3 0 (b 2).toNat
  let target := replaceAbove 31 home.value.val (b 3).toNat
  let deck := replaceAbove 19 0 (b 4).toNat
  let stride := checkStride (field16 b 12).toNat
  let rows := clampTo 1 4320 (field16 b 14).toNat
  let mask := checkDeckMask (field32 b 20) deck.value
  let paneCount := clampTo 0 4 (b 6).toNat
  let panes := (List.range paneCount.value).map fun j => readPane b (24 + 8 * j) (stride.value / 64) rows.value
  { value :=
      ({ kind := kind.value, base := alignLine (field32 b 8), stride := stride.value, rows := rows.value
         fill := field32 b 16, deck := deck.value, home := home.value, language := language.value
         deckMask := mask.value, categoryMask := b 5
         panes := panes.filterMap Checked.value }, target.value)
    clamped := kind.clamped || home.clamped || language.clamped || target.clamped || deck.clamped ||
      stride.clamped || rows.clamped || mask.clamped || paneCount.clamped || panes.any Checked.clamped ||
      regionCut (alignLine (field32 b 8)) stride.value rows.value }

/-- A glyph table entry (R32). -/
def readGlyph (b : Nat → Byte) (i : Nat) : Glyph :=
  { base := alignLine (field32 b (8 * i)), width := (b (8 * i + 4)).toNat
    height := (field16 b (8 * i + 6)).toNat }

/-- A station table entry (R72). -/
def checkStation (b : Nat → Byte) (i : Nat) : Checked Station :=
  let state := (b (2 * i)).toNat
  let alternate := (b (2 * i + 1)).toNat
  { value :=
      { closed := decide (state = 1)
        alternate := if h : alternate < 12 then some ⟨alternate, h⟩ else none }
    clamped := decide (1 < state) || (decide (12 ≤ alternate) && decide (alternate ≠ 255)) }

/-- Whether `bytes` bytes from an address lie wholly inside the protected store (R80, R93). -/
def insideStore (protect : Option Window) (a : Addr) (bytes : Nat) : Bool :=
  match protect with
  | some w => decide (w.base.toNat ≤ a.toNat) && decide (a.toNat + bytes ≤ w.base.toNat + 64 * w.lines)
  | none => false

/-- A muster page table entry: absent, with the cause noted but for slot addresses of 0, or present. A live
slot other than 0 or 1 is noted of every entry (R80). Where both slot addresses are 0 no other cause is
noted (log 33). -/
def checkPage (protect : Option Window) (b : Nat → Byte) (i : Nat) : Checked (Option Page) :=
  let o := 16 * i
  let slot0 := alignLine (field32 b o)
  let slot1 := alignLine (field32 b (o + 4))
  let stride := (field16 b (o + 8)).toNat
  let rows := (field16 b (o + 10)).toNat
  let live := (b (o + 12)).toNat
  if slot0 = 0 ∧ slot1 = 0 then { value := none, clamped := decide (1 < live) }
  else if stride % 64 ≠ 0 ∨ stride < 64 ∨ 32768 < stride ∨ rows = 0 ∨ 4320 < rows then
    { value := none, clamped := true }
  else if (insideStore protect slot0 (rows * stride) && insideStore protect slot1 (rows * stride)) = false then
    { value := none, clamped := true }
  else { value := some { slot0, slot1, stride, rows, live := decide (live = 1) }, clamped := decide (1 < live) }

/-- A segment kind code (R86, R170). -/
def segmentKindOf : Nat → Checked SegmentKind
  | 0 => { value := .corridor }
  | 1 => { value := .openDeck }
  | 2 => { value := .bulkheadPassage }
  | 3 => { value := .stairUp }
  | 4 => { value := .stairDown }
  | 5 => { value := .lift }
  | _ => { value := .corridor, clamped := true }

/-- A segment's attributes (R86). -/
def checkSegment (b : Nat → Byte) (i : Nat) : Checked Segment :=
  let o := 2 + 4 * i
  let length := clampTo 1 1000 (field16 b o).toNat
  let kind := segmentKindOf (b (o + 2)).toNat
  let zone := replaceAbove 8 0 (b (o + 3)).toNat
  { value := { length := length.value, kind := kind.value, zone := zone.value }
    clamped := length.clamped || kind.clamped || zone.clamped }

/-- The timing values (R163). -/
def checkTiming (b : Nat → Byte) : Checked Timing :=
  let memory := clampTo 1 100 (field16 b 0).toNat
  let maint := clampTo 5 240 (field16 b 2).toNat
  let dark := clampTo 500 10000 (field16 b 4).toNat
  let standdown := clampTo 1 120 (field16 b 6).toNat
  let refresh := clampTo 5 600 (field16 b 8).toNat
  { value := { memoryTenths := memory.value, maintMinutes := maint.value, darkMs := dark.value
               standdownMinutes := standdown.value, refreshSeconds := refresh.value }
    clamped := memory.clamped || maint.clamped || dark.clamped || standdown.clamped || refresh.clamped }

/-- The default ring: 16 entries at control block base + 2048, watermark 1 (R163). -/
def defaultRing (control : Addr) : RingConf := { base := control + 2048#32, count := 16, watermark := 1 }

/-- A staged notice ring (R163, log 26). -/
def checkRing (control : Addr) (b : Nat → Byte) : Checked RingConf :=
  let base := alignLine (field32 b 0)
  let count := clampTo 16 1024 (field16 b 4).toNat
  let mark := clampTo 1 (count.value - 1) (field16 b 6).toNat
  if 4294967296 < base.toNat + count.value * 16 then { value := defaultRing control, clamped := true }
  else { value := { base, count := count.value, watermark := mark.value }, clamped := count.clamped || mark.clamped }

/-- The route table base: disabled where its extent is not wholly inside the protected store (R93). With
no screens the extent is 0 and it is not disabled. -/
def checkTable (protect : Option Window) (screens : Nat) (base : Addr) : Checked (Option Addr) :=
  if screens = 0 ∨ insideStore protect base (screens * 4096) = true then { value := some base }
  else { value := none, clamped := true }

/-- Contents with what CHECK notes of them (R163). -/
structure ContentsCheck where
  contents : Contents
  clamped : Bool
  overlap : Bool
deriving DecidableEq, Repr

/-- The staged contents brought into range, block by block, with the defaults of missing records (R163).
An empty body stands for a missing record where every default follows from it. -/
def checkContents (control : Addr) (staging : List (Nat × List Byte)) : ContentsCheck :=
  let body := fun type => (stagedOf staging type).getD []
  let cabinBody := stagedOf staging 10
  let cabinCount := cabinBody.map fun l => clampTo 1 512 (field16 (listByte l) 0).toNat
  let windows :=
    match stagedOf staging 1 with
    | some l => checkWindows control l (cabinCount.map Checked.value)
    | none => {}
  let screenBody := body 3
  let screens := (List.range (listByte screenBody 0).toNat).map fun i =>
    checkScreen fun j => listByte screenBody (1 + 64 * i + j)
  let tags := (List.finRange 64).map fun i => checkTag screens.length (body 2) i.val
  let stations := (stagedOf staging 5).map fun l => (List.finRange 12).map fun i => checkStation (listByte l) i.val
  let pages := (List.range 144).map fun i =>
    match stagedOf staging 6 with
    | some l => checkPage windows.protect (listByte l) i
    | none => { value := none }
  let segmentCount := clampTo 0 256 (field16 (listByte (body 7)) 0).toNat
  let segments := (List.range segmentCount.value).map fun i => checkSegment (listByte (body 7)) i
  let table :=
    match cabinBody with
    | some l => checkTable windows.protect screens.length (alignLine (field32 (listByte l) 2))
    | none => { value := none }
  let timing :=
    match stagedOf staging 8 with
    | some l => checkTiming (listByte l)
    | none => { value := {} }
  let ring :=
    match stagedOf staging 9 with
    | some l => checkRing control (listByte l)
    | none => { value := defaultRing control }
  { contents :=
      { protect := windows.protect, programme := windows.programme, segment := windows.segment
        cabin := windows.cabin
        tags := Vector.ofFn fun i => (checkTag screens.length (body 2) i.val).value
        screens := screens.map Checked.value
        glyphs := Vector.ofFn fun i => readGlyph (listByte (body 4)) i.val
        stations := match stagedOf staging 5 with
          | some l => Vector.ofFn fun i => (checkStation (listByte l) i.val).value
          | none => Vector.replicate 12 {}
        pages := pages.map Checked.value
        segments := segments.map Checked.value
        tableBase := table.value
        cabinCount := if windows.cabin.isSome then (cabinCount.map Checked.value).getD 0 else 0
        timing := timing.value
        ring := ring.value }
    clamped := windows.clamped || tags.any Checked.clamped || screens.any Checked.clamped ||
      (stations.getD []).any Checked.clamped || pages.any Checked.clamped || segmentCount.clamped ||
      segments.any Checked.clamped || table.clamped || cabinCount.any Checked.clamped || timing.clamped ||
      ring.clamped
    overlap := windows.overlap }

end Sys2Proof.Machine
end

