-- ==== Sys2Proof/Machine/StartUp.lean ====
section
/-! DEFINITION. Reset, the release of internal reset, the end of ROM loading, and the end of start-up
(spec 10). -/

namespace Sys2Proof.Machine

open Sys2Proof

/-- A sampler at reset: every level deasserted and every count zero; the raw level is the pin's own
(R50, R71, log 14). -/
def Filter.restart (f : Filter) : Filter := { raw := f.raw }

/-- All samplers at reset. -/
def Lines.restart (ls : Lines) : Lines :=
  { bell := ls.bell.restart, muster := ls.muster.restart, maint := ls.maint.restart
    fire := ls.fire.map Filter.restart }

/-- A reset, power-on or pin: everything the part keeps is discarded, and the loader is held in RESET
(R15, R29, R71, R85, R107, R131, R146, R159, R166). The waiting commands and the levels at the pins are
not the part's. -/
def State.doReset (s : State) : State :=
  { State.reset with pending := s.pending, free := s.free, lines := s.lines.restart }

/-- Internal reset releases: the straps are latched, the loader passes through LATCH into LOAD, and the
samplers start (R160, R50). -/
def State.release (s : State) (strap1 strap0 : StrapLevel) : State :=
  if s.loader.phase = .reset then
    { s with
      loader := { s.loader with
        phase := .load, sinceRelease := 0, strap1, strap0
        result := { s.loader.result with strapIndex := strapIndex strap1 strap0 } }
      lines := s.lines.restart }
  else s

/-- The control block base that the latched straps select (R160). -/
def Loader.controlBase (l : Loader) : Addr := strapBase l.result.strapIndex

/-- The ROM has been read: it is staged and summed, or rejected on its signature; CHECK tests it and
brings the staged contents into range (R161 to R163). On a bad signature the running sum is left at the
signature byte, which the spec does not state (log 48). -/
def State.romLoaded (s : State) (rom : List Byte) : State :=
  if s.loader.phase = .load then
    let reason := startReason rom
    let loaded := if reason = .signature then {} else loadRecords rom
    let check := checkContents s.loader.controlBase loaded.staging
    let good := decide (reason = .none)
    { s with loader := { s.loader with
        phase := .check
        staging := loaded.staging
        runningSum := if reason = .signature then (romByte rom 0).setWidth 16 else romSum rom
        storedSum := if reason = .signature then 0 else romStoredSum rom
        result := { s.loader.result with
          degraded := !good, reason := reason
          clamped := good && check.clamped, overlap := good && check.overlap, skipped := loaded.skipped }
        checked := if good then some check.contents else none } }
  else s

/-- The Muster controller at the end of start-up, before the MUSTER level is read: NORMAL, epoch 0, and
the recogniser in IDLE, or in LONG if BELL is high (R53, R60). -/
def startMuster (ls : Lines) : MusterUnit :=
  { state := .normal, bell := if ls.bell.deg then .long else .idle }

/-- The Notice writer's copy of the descriptor at the end of start-up: the ring in use and a head index
of 0 (R159). -/
def startDesc (r : RingConf) : Vector Byte 10 :=
  Vector.ofFn fun i => (bytes32 r.base ++ bytes16 (BitVec.ofNat 16 r.count) ++
    bytes16 (BitVec.ofNat 16 r.watermark) ++ [0, 0]).getD i.val 0

/-- The Notice writer at the end of start-up: the whole status block is dirty and a tail word write of 0
is due (R159). -/
def startNotice (r : RingConf) : NoticeUnit :=
  { ring := r, desc := startDesc r, dirty := Vector.replicate 7 true, tailDue := true }

/-- A screen at the end of start-up: UNKNOWN, with its dark timer started and no plan (R43, R45). -/
def startScreen (q : ScreenConf × Nat) : Screen := { conf := q.1, defaultTarget := q.2 }

/-- The copies of the FIRE ZONE levels at the end of start-up (R52, R86). -/
def startZones (ls : Lines) : Vector Bool 8 := ls.fire.map (·.deb)

/-- What every start-up end sets: the uptime count starts from 0, the memory path, the command slot and
the clock are as their rules give them (R3, R5, R15, R29, R108, R147, R164). -/
def State.startCommon (s : State) (phase : Phase) (r : RingConf) : State :=
  { s with
    loader := { s.loader with phase := phase }
    time := { s.time with uptime := 0, uptimePhase := 0 }
    path := {}
    muster := startMuster s.lines
    prog := {}
    cmd := {}
    notice := startNotice r }

/-- Start-up ends in READY: every block takes its staged and checked contents (R164). -/
def State.startReady (s : State) (c : Contents) : State :=
  let screens := c.screens.map startScreen
  let s1 := s.startCommon .ready c.ring
  let s2 : State := { s1 with
    cfg := { control := some s.loader.controlBase, protect := c.protect, programme := c.programme
             segment := c.segment, cabin := c.cabin, tags := c.tags, timing := c.timing }
    screen := { screens, glyphs := c.glyphs }
    station := { table := some (StationTable.of c.stations), pages := c.pages }
    route := { segments := c.segments, zones := startZones s.lines, tableBase := c.tableBase
               results := List.replicate screens.length .none }
    prog := { s1.prog with
      shadow := List.replicate 256 {}
      sel := screens.map s1.prog.select }
    cabin := { cabins := List.replicate c.cabinCount {} } }
  s2.appendArrows

/-- Start-up ends in DEGRADED: the control block at its strapped base, every tag GENERAL, no other block
with contents, and the defaults of R163 (R16, R19, R165). -/
def State.startDegraded (s : State) : State :=
  let s1 := s.startCommon .degraded (defaultRing s.loader.controlBase)
  { s1 with
    cfg := { control := some s.loader.controlBase }
    screen := {}
    station := {}
    route := {}
    cabin := {} }

/-- The Muster controller reads the debounced MUSTER level when start-up ends: asserted, it takes an
entry into MUSTER with cause LINE (R60). -/
def State.decideMuster (s : State) : State :=
  if s.lines.muster.deb then s.changeMuster (s.muster.enterMuster .line) .line else s

/-- Whether CHECK may end: its tests are done and 220 ms have passed since the release (R52, R163). -/
def Loader.checkDone (l : Loader) : Bool :=
  decide (l.phase = .check) && decide (Config.startUpMs ≤ l.sinceRelease)

/-- Start-up ends, in READY if CHECK left contents and in DEGRADED otherwise, and the Muster controller
decides the muster state (R60, R164). -/
def State.startUpEnds (s : State) : State :=
  if s.loader.checkDone then
    match s.loader.checked with
    | some c => (s.startReady c).decideMuster
    | none => s.startDegraded.decideMuster
  else s

end Sys2Proof.Machine
end

