-- ==== Sys2Proof/Machine/ExecStartUp.lean ====
section
/-! DEFINITION. The meanings of reset, its release, the end of ROM loading and the end of start-up (spec
10). -/

namespace Sys2Proof.Machine

open Sys2Proof

/-- RESET: a power-on or pin reset (R166). -/
def execReset (s : State) : Out := .next s.doReset

/-- RESET_RELEASE: internal reset releases, and the straps are latched (R160). -/
def execResetRelease (strap1 strap0 : StrapLevel) (s : State) : Out := commit s (s.release strap1 strap0)

/-- ROM_LOAD_END: the ROM has been read, and CHECK tests it (R161 to R163). -/
def execRomLoadEnd (rom : List Byte) (s : State) : Out := commit s (s.romLoaded rom)

/-- START_UP_END: CHECK has finished and 220 ms have passed since the release (R163 to R165). -/
def execStartUpEnd (s : State) : Out := commit s s.startUpEnds

end Sys2Proof.Machine
end

