-- ==== Sys2Proof/Machine/Dispatch.lean ====
section
/-! DEFINITION. The meaning of every command: one arm for each constructor of Instr. -/

namespace Sys2Proof.Machine

open Sys2Proof

def exec (i : Instr) (s : State) : Host.Outcome State Fault Refusal :=
  match i with
  | .pspWrite req => Sys2Proof.Machine.execPspWrite req s
  | .headIndexWrite tag head enLow enHigh => Sys2Proof.Machine.execHeadIndexWrite tag head enLow enHigh s
  | .programmeLineWrite tag line w => Sys2Proof.Machine.execProgrammeLineWrite tag line w s
  | .segmentStatusWrite tag line w => Sys2Proof.Machine.execSegmentStatusWrite tag line w s
  | .cabinRecordWrite tag line w => Sys2Proof.Machine.execCabinRecordWrite tag line w s
  | .pspRead tag first count => Sys2Proof.Machine.execPspRead tag first count s
  | .arbiterGrant => Sys2Proof.Machine.execArbiterGrant s
  | .pwqWriteAnswer a => Sys2Proof.Machine.execPwqWriteAnswer a s
  | .readLineData t l d => Sys2Proof.Machine.execReadLineData t l d s
  | .readLineError t l => Sys2Proof.Machine.execReadLineError t l s
  | .readAnswer t => Sys2Proof.Machine.execReadAnswer t s
  | .ownReadLineAnswer k l a => Sys2Proof.Machine.execOwnReadLineAnswer k l a s
  | .iwqWriteAnswer a => Sys2Proof.Machine.execIwqWriteAnswer a s
  | .memoryTimeout r => Sys2Proof.Machine.execMemoryTimeout r s
  | .lateAnswer a => Sys2Proof.Machine.execLateAnswer a s
  | .noticeWriterTurn => Sys2Proof.Machine.execNoticeWriterTurn s
  | .resultWordPlacement => Sys2Proof.Machine.execResultWordPlacement s
  | .drillStart tag seq => Sys2Proof.Machine.execDrillStart tag seq s
  | .drillEnd tag seq => Sys2Proof.Machine.execDrillEnd tag seq s
  | .musterOrder tag seq => Sys2Proof.Machine.execMusterOrder tag seq s
  | .allClear tag seq => Sys2Proof.Machine.execAllClear tag seq s
  | .standdownEnd tag seq => Sys2Proof.Machine.execStanddownEnd tag seq s
  | .stationClose tag seq station => Sys2Proof.Machine.execStationClose tag seq station s
  | .stationOpen tag seq station => Sys2Proof.Machine.execStationOpen tag seq station s
  | .setAlternate tag seq station alternate => Sys2Proof.Machine.execSetAlternate tag seq station alternate s
  | .publishPage tag seq station language variant => Sys2Proof.Machine.execPublishPage tag seq station language variant s
  | .openWindow tag seq => Sys2Proof.Machine.execOpenWindow tag seq s
  | .closeWindow tag seq => Sys2Proof.Machine.execCloseWindow tag seq s
  | .setClock tag seq day second => Sys2Proof.Machine.execSetClock tag seq day second s
  | .scheduleShift tag seq day minute shift => Sys2Proof.Machine.execScheduleShift tag seq day minute shift s
  | .cancelShift tag seq => Sys2Proof.Machine.execCancelShift tag seq s
  | .setDefaultTarget tag seq screen target => Sys2Proof.Machine.execSetDefaultTarget tag seq screen target s
  | .rescan tag seq table => Sys2Proof.Machine.execRescan tag seq table s
  | .setRing tag seq => Sys2Proof.Machine.execSetRing tag seq s
  | .unknownCommand tag seq code => Sys2Proof.Machine.execUnknownCommand tag seq code s
  | .rawLineChange line level => Sys2Proof.Machine.execRawLineChange line level s
  | .deglitchExpiry line => Sys2Proof.Machine.execDeglitchExpiry line s
  | .debounceExpiry line => Sys2Proof.Machine.execDebounceExpiry line s
  | .longBlast => Sys2Proof.Machine.execLongBlast s
  | .gapTimerExpiry => Sys2Proof.Machine.execGapTimerExpiry s
  | .standdownTimerExpiry => Sys2Proof.Machine.execStanddownTimerExpiry s
  | .maintTimerExpiry => Sys2Proof.Machine.execMaintTimerExpiry s
  | .darkTimerExpiry screen => Sys2Proof.Machine.execDarkTimerExpiry screen s
  | .clockAdvance => Sys2Proof.Machine.execClockAdvance s
  | .uptimeSecond => Sys2Proof.Machine.execUptimeSecond s
  | .routeComputationStart => Sys2Proof.Machine.execRouteComputationStart s
  | .reset => Sys2Proof.Machine.execReset s
  | .resetRelease strap1 strap0 => Sys2Proof.Machine.execResetRelease strap1 strap0 s
  | .romLoadEnd rom => Sys2Proof.Machine.execRomLoadEnd rom s
  | .startUpEnd => Sys2Proof.Machine.execStartUpEnd s

end Sys2Proof.Machine
end

