-- ==== Sys2Proof/Safety.lean ====
section
/-! DEFINITION. The terms in which the claims speak: what a next state may differ in, when a command in
the slot runs at once, and the invariants of the part. -/

namespace Sys2Proof.Machine

open Sys2Proof

/-! ## What the status block's bookkeeping may change (R157) -/

/-- Two IWQ entries write the same bytes, but for the present bytes of a status line (R157). -/
def SameWrite (x y : IwqEntry) : Prop :=
  x.kind = y.kind ∧ x.addr = y.addr ∧ x.en = y.en ∧ ((∀ i, x.kind ≠ .status i) → x.data = y.data)

/-- `t` is `u` but for the status block's bookkeeping: dirty marks may be set, and the data of writes of
status lines that wait in the IWQ may be brought up to date (R157). -/
def StatusFollows (u t : State) : Prop :=
  t = { u with
        path := { u.path with iwq := t.path.iwq }
        notice := { u.notice with dirty := t.notice.dirty } } ∧
  List.Forall₂ SameWrite u.path.iwq t.path.iwq ∧
  ∀ i : Fin 7, u.notice.dirty[i] = true → t.notice.dirty[i] = true

/-! ## The command slot (R147 to R149) -/

/-- A command written into the slot at `base` runs at once and its result is placed at once: start-up has
ended, the slot is IDLE, and the PWQ and the IWQ each have a free entry. -/
def State.slotOpen (s : State) (base : Addr) : Prop :=
  s.started = true ∧ s.cfg.control = some base ∧ s.cmd.executing = false ∧
  s.path.pwq.length < Config.pwqSize ∧ s.path.iwq.length < Config.iwqSize

/-- The state at the start of a command: the slot's write has been accepted, its line has joined the PWQ,
and the slot is EXECUTING with the command word and arguments in its copy (R2, R147). -/
def State.slotWritten (s : State) (base : Addr) (code seq : Byte) (args : List Word) : State :=
  { s with
    port := { s.port with psp := some .accept }
    path := { s.path with
      pwq := s.path.pwq ++ [{ addr := base, data := (slotLine code seq args).data
                              en := (slotLine code seq args).en, seq := s.path.seq }]
      seq := s.path.seq + 1 }
    cmd := { s.cmd with
      copy := sliceBytes (slotLine code seq args).data 0
      executing := true, overrunMark := false, seqInHand := seq } }

/-- A WRITE of the lines `l` is taken: the PSP answers ACCEPT, and the lines join the PWQ (R2). -/
def State.accepted (s : State) (l : List (Addr × WriteLine)) : State :=
  { s with
    port := { s.port with psp := some .accept }
    path := { s.path with
      pwq := s.path.pwq ++ l.map fun q => { addr := q.1, data := q.2.data, en := q.2.en, seq := s.path.seq }
      seq := s.path.seq + 1 } }

/-- Command `c` leads from `s` to a next state that is `u` but for the status block's bookkeeping. -/
def RunsTo (c : Instr) (s u : State) : Prop := ∃ t, exec c s = .next t ∧ StatusFollows u t

/-- A command has been written into the slot at `base` and has ended with an outcome and a detail: its
write is accepted, its result word is the last write of the IWQ, and the slot is IDLE again (R2, R148,
R149). The path, the port and the slot are otherwise as they were. -/
def CommandEnds (s t : State) (base : Addr) (code seq : Byte) (args : List Word) (o : CmdOutcome)
    (detail : Word) : Prop :=
  t.port = { s.port with psp := some .accept } ∧
  t.path = { s.path with
    pwq := s.path.pwq ++ [{ addr := base, data := (slotLine code seq args).data
                            en := (slotLine code seq args).en, seq := s.path.seq }]
    seq := s.path.seq + 1
    iwq := t.path.iwq } ∧
  (∃ l, List.Forall₂ SameWrite s.path.iwq l ∧ t.path.iwq = l ++
    [{ kind := .result, addr := base, en := enablesAt 0x20 8
       data := lineAt 0x20 ([seq, outcomeCode o, 0, 0] ++ bytes32 detail) }]) ∧
  t.cmd = { s.cmd with
    copy := sliceBytes (slotLine code seq args).data 0
    executing := false, overrunMark := false, seqInHand := seq, held := none
    last := { seq, outcome := outcomeCode o, flags := 0 }
    maint := t.cmd.maint }

/-- From `u` to `t` the notices `ns` have been handed to the Notice writer, one after another, and nothing
else of it has changed but for dirty marks (R153, R157). -/
def NoticesHanded (u t : NoticeUnit) (ns : List Notice) : Prop :=
  t = { ns.foldl NoticeUnit.push u with dirty := t.dirty }

/-- The CABIN_REFRESH notices of one moment that ends in `t`, in set order: one for each pending cabin whose
eligible second has come and whose notified flag was clear, or was cleared by a rise to URGENT (R141,
R143, R144). -/
def cabinNotices (s t : State) : List Notice :=
  t.cabin.pend.filterMap fun i =>
    match s.cabin.cabins[i]?, t.cabin.cabins[i]? with
    | some c, some d =>
      if d.pend ≠ .none ∧ d.eligible.toNat ≤ t.time.uptime.toNat ∧
          (c.notified = false ∨ (c.pend = .routine ∧ d.pend = .urgent)) then
        some { kind := .cabinRefresh, urgent := decide (d.pend = .urgent), subject := BitVec.ofNat 32 i
               detail := if d.pend = .urgent then 1 else 0, epoch := t.muster.epoch, stamp := t.time.uptime }
      else none
    | _, _ => none

/-- The COVERAGE_COMPLETE notice of a moment that ends in `t`, where the report mark stood ARMED before it: due
in DRILL and MUSTER where every LIT screen is covered, with the covered count in bytes 0 and 1 of the detail
and the DARK count in bytes 2 and 3 (R47, R49). -/
def coverageReport (armed : Bool) (t : State) : List Notice :=
  if armed = true ∧ (t.muster.state = .drill ∨ t.muster.state = .muster) ∧
      ∀ q ∈ t.screen.screens, q.watch ≠ .lit ∨ q.covered = true then
    [{ kind := .coverageComplete, urgent := true, subject := 0
       detail := BitVec.ofNat 16 (t.screen.screens.countP fun q => decide (q.watch = .dark)) ++
         BitVec.ofNat 16 (t.screen.screens.countP fun q => q.covered)
       epoch := t.muster.epoch, stamp := t.time.uptime }]
  else []

/-- Every block that a change of muster state leaves alone is as before. -/
def MusterFrame (s t : State) : Prop :=
  t.loader = s.loader ∧ t.time = s.time ∧ t.cfg = s.cfg ∧ t.lines = s.lines ∧ t.station = s.station ∧
  t.prog = s.prog ∧ t.screen.glyphs = s.screen.glyphs ∧ t.cabin.badHome = s.cabin.badHome ∧
  t.notice.ring = s.notice.ring ∧ t.notice.head = s.notice.head ∧ t.notice.tail = s.notice.tail ∧
  t.notice.irq = s.notice.irq ∧ t.notice.desc = s.notice.desc ∧ t.notice.urgent = s.notice.urgent

/-- A cabin after an URGENT cause and the notices of its moment. A cabin that is URGENT already keeps its
eligible second and its notified flag, which the notices of the moment then set if it is eligible (R140, R141,
R143). -/
def UrgentNow (now : Word) (c d : Cabin) : Prop :=
  d.home = c.home ∧ d.lastRefresh = c.lastRefresh ∧ d.lastWrite = c.lastWrite ∧ d.pend = .urgent ∧
  (c.pend ≠ .urgent → d.eligible = now ∧ d.notified = true) ∧
  (c.pend = .urgent →
    d.eligible = c.eligible ∧ d.notified = (c.notified || decide (c.eligible.toNat ≤ now.toNat)))

/-- The notices of a change from `s` to `t` of muster state, to the record `m`: MUSTER_STATE first, then
MAINT_WINDOW with cause MUSTER where the change closes the window, COVERAGE_COMPLETE where it is due, and the
CABIN_REFRESH notices, these three in an order that is free (R28, R49, R68, R143, log 10). -/
def ChangeNotices (s t : State) (m : MusterUnit) (o : Origin) : Prop :=
  let closure : List Notice :=
    if s.muster.state = .normal ∧ isAlert m.state = true ∧ s.cmd.maint ≠ none then
      [{ kind := .maintWindow, urgent := false, subject := 0, detail := 2, epoch := m.epoch, stamp := s.time.uptime }]
    else []
  ∃ a b c, [a, b, c].Perm [closure, coverageReport (isAlert m.state && s.isReady) t, cabinNotices s t] ∧
    NoticesHanded s.notice t.notice
      ({ kind := .musterState, urgent := true, subject := 0, detail := musterDetail m.state o
         epoch := m.epoch, stamp := s.time.uptime } :: (a ++ b ++ c))

/-- From `s` to `t` the muster state has changed: its record is `m` with MUSTER_SHOWN following, and every
block has taken the change as R68 and R69 say. That every screen is uncovered until its next frame start,
whatever its plan, is the model's reading (log 43). -/
def MusterChanged (s t : State) (m : MusterUnit) (o : Origin) : Prop :=
  t.muster = { m with shown := t.muster.shown } ∧ t.muster.shown = t.shownCondition ∧
  t.screen.screens = s.screen.screens.map Screen.uncover ∧
  t.screen.mark = (isAlert m.state && s.isReady && !t.screen.allCovered) ∧
  t.route = { s.route with work := s.arrowScreens.foldl appendWork s.route.work } ∧
  t.cabin.cabins.length = s.cabin.cabins.length ∧
  (∀ (i : Nat) (c : Cabin), s.cabin.cabins[i]? = some c →
    ∃ d, t.cabin.cabins[i]? = some d ∧ UrgentNow s.time.uptime c d) ∧
  ChangeNotices s t m o ∧
  (t.cmd.maint = if s.muster.state = .normal ∧ isAlert m.state = true then none else s.cmd.maint) ∧
  MusterFrame s t

/-- The word that a muster command's result gives as its detail (R61, spec 11). -/
def musterResult (m : MusterUnit) : Word := m.epoch ++ BitVec.ofNat 16 (musterCode m.state)

/-- The screens with an ARROW pane whose featured target differs between `s` and `t` have been appended to
the work list, in screen order (R96, R97, R123). -/
def FeaturedHanded (s t : State) : Prop :=
  t.route.work = ((List.range s.screen.screens.length).filter fun i =>
    match s.screen.screens[i]?, s.prog.sel[i]?, t.prog.sel[i]? with
    | some sc, some (some a), some (some b) => sc.hasArrow && decide (a.featured ≠ b.featured)
    | _, _, _ => false).foldl appendWork s.route.work

/-- A route result that replaces `before` at screen `i` has queued its notice, unless it repeats it
(R105). -/
def RouteReported (s t : State) (i : Nat) (before after : RouteResult) : Prop :=
  let notice (kind : NoticeKind) (target : Option Nat) : Notice :=
    { kind, urgent := true, subject := BitVec.ofNat 32 i, epoch := s.muster.epoch, stamp := s.time.uptime
      detail := match target with
        | some n => BitVec.ofNat 32 n
        | none => 255 }
  NoticesHanded s.notice t.notice
    (if before = after then []
    else match after with
      | .noRoute target => [notice .routeNone target]
      | .fault target => [notice .routeFault (some target)]
      | .none | .selected _ _ _ _ => [])

/-- A rescan record after line `k` of `table` has been delivered: the units of the read in flight that
received an enabled byte are touched (R128). -/
def RescanTouched (before after : Option Rescan) (table : ScanTable) (k : Nat) (en : Enables) : Prop :=
  (before = none → after = none) ∧
  ∀ r, before = some r → ∃ r', after = some r' ∧ r' = { r with touched := r'.touched } ∧
    r'.touched.length = r.touched.length ∧
    ∀ (j u : Nat), u < unitsPerLine table → j * unitsPerLine table + u < r.touched.length →
      r'.touched.getD (j * unitsPerLine table + u) false =
        (r.touched.getD (j * unitsPerLine table + u) false ||
          (decide (r.table = table) && decide (k = r.first + j) && decide (j < r.count) &&
            anyEnabled en (u * unitBytes table) (unitBytes table)))

/-- A segment after a status byte: the state its code names, or as it was where it holds no code (R87). -/
def Segment.withCode (g : Segment) (b : Byte) : Segment :=
  match b.toNat with
  | 0 => { g with soft := .opened }
  | 1 => { g with soft := .restricted }
  | 2 => { g with soft := .closed }
  | _ => g

/-- The code, sequence number and arguments of a command of the command slot (spec 11). -/
def slotCommand : Instr → Option (Byte × Byte × List Word)
  | .drillStart _ seq => some (1, seq, [])
  | .drillEnd _ seq => some (2, seq, [])
  | .musterOrder _ seq => some (3, seq, [])
  | .allClear _ seq => some (4, seq, [])
  | .standdownEnd _ seq => some (5, seq, [])
  | .stationClose _ seq a => some (6, seq, [a])
  | .stationOpen _ seq a => some (7, seq, [a])
  | .setAlternate _ seq a b => some (8, seq, [a, b])
  | .publishPage _ seq a b c => some (9, seq, [a, b, c])
  | .openWindow _ seq => some (10, seq, [])
  | .closeWindow _ seq => some (11, seq, [])
  | .setClock _ seq a b => some (12, seq, [a, b])
  | .scheduleShift _ seq a b c => some (13, seq, [a, b, c])
  | .cancelShift _ seq => some (14, seq, [])
  | .setDefaultTarget _ seq a b => some (15, seq, [a, b])
  | .rescan _ seq a => some (16, seq, [a])
  | .setRing _ seq => some (17, seq, [])
  | .unknownCommand _ seq code => some (code, seq, [])
  | .pspWrite _ | .headIndexWrite _ _ _ _ | .programmeLineWrite _ _ _ | .segmentStatusWrite _ _ _
  | .cabinRecordWrite _ _ _ | .pspRead _ _ _ | .arbiterGrant | .pwqWriteAnswer _ | .readLineData _ _ _
  | .readLineError _ _ | .readAnswer _ | .ownReadLineAnswer _ _ _ | .iwqWriteAnswer _ | .memoryTimeout _
  | .lateAnswer _ | .noticeWriterTurn | .resultWordPlacement | .rawLineChange _ _ | .deglitchExpiry _
  | .debounceExpiry _ | .longBlast | .gapTimerExpiry | .standdownTimerExpiry | .maintTimerExpiry
  | .darkTimerExpiry _ | .clockAdvance | .uptimeSecond | .routeComputationStart | .reset
  | .resetRelease _ _ | .romLoadEnd _ | .startUpEnd => none

/-! ## Observed refreshes (R79, R138, R145) -/

/-- The observed refresh of cabin `i` by a read of acceptance sequence `seq`, at the uptime, the muster epoch
and the refresh interval of `s`: it leads the Cabin unit from `u` to `v` with the notices `ns`. It is complete
where no write to the record has been accepted after the read, and the cabin is then not pending, whatever
cause it had. It is incomplete otherwise, and the cabin is ROUTINE from then (R138, R143, R145; beyond the last
uptime second the eligible second is free, log 11). -/
def RefreshObserved (s : State) (seq i : Nat) (u v : CabinUnit) (ns : List Notice) : Prop :=
  let now := s.time.uptime
  (u.cabins[i]? = none → v = u ∧ ns = []) ∧
  ∀ c, u.cabins[i]? = some c →
    ((∀ w, c.lastWrite = some w → w < seq) → ns = [] ∧
      v = { u with
        cabins := u.cabins.set i { c with lastRefresh := now, pend := .none, notified := false }
        pend := u.pend.filter fun j => decide (j ≠ i) }) ∧
    ((∃ w, c.lastWrite = some w ∧ seq ≤ w) →
      (∃ eligible : Word,
        (now.toNat + s.cfg.timing.refreshSeconds < 4294967296 →
          eligible.toNat = now.toNat + s.cfg.timing.refreshSeconds) ∧
        v.cabins[i]? = some { c with
          lastRefresh := now, pend := .routine, eligible := eligible
          notified := decide (eligible.toNat ≤ now.toNat) }) ∧
      v.cabins.length = u.cabins.length ∧
      (∀ (j : Nat) (d : Cabin), j ≠ i → u.cabins[j]? = some d → v.cabins[j]? = some { d with
        notified := d.notified || decide (d.pend ≠ .none ∧ d.eligible.toNat ≤ now.toNat) }) ∧
      i ∈ v.pend ∧ (∀ j, j ≠ i → (j ∈ v.pend ↔ j ∈ u.pend)) ∧ v.badHome = u.badHome ∧
      ns = cabinNotices { s with cabin := { u with cabins := u.cabins.set i { c with notified := false } } }
        { s with cabin := v })

/-! ## The bytes the part writes (R167 to R169, spec 11) -/

/-- The 2-byte number at offset `o`, lowest byte first (R167). -/
def number2 (b : Nat → Byte) (o : Nat) : Nat := (b o).toNat + 256 * (b (o + 1)).toNat

/-- The 4-byte number at offset `o`, lowest byte first (R167). -/
def number4 (b : Nat → Byte) (o : Nat) : Nat := number2 b o + 65536 * number2 b (o + 2)

/-- The 16 bytes of a notice record (spec 11, section 11.2). -/
def RecordBytes (n : Notice) (b : Nat → Byte) : Prop :=
  (b 0).toNat = (match n.kind with
    | .memoryFault => 1
    | .protectViolation => 2
    | .maintWindow => 3
    | .sourceFault => 4
    | .screenLit => 5
    | .screenDark => 6
    | .coverageComplete => 7
    | .alarmHeard => 8
    | .musterState => 9
    | .stationChanged => 10
    | .routeNone => 11
    | .routeFault => 12
    | .clockShifted => 13
    | .entryRejected => 14
    | .cabinRefresh => 15) ∧
  (b 1).toNat = (if n.urgent = true then 1 else 0) ∧ number2 b 2 = n.epoch.toNat ∧
  number4 b 4 = n.stamp.toNat ∧ number4 b 8 = n.subject.toNat ∧ number4 b 12 = n.detail.toNat

/-- A flag's byte. -/
def FlagIs (b : Byte) (flag : Bool) : Prop := b.toNat = if flag = true then 1 else 0

/-- The bytes of status line 0, each number taken modulo its width (R169). What the presence bits and the
bytes of a shift that is not pending hold is the model's reading (log 24, log 25). -/
def HeadLineBytes (s : State) (b : Nat → Byte) : Prop :=
  let flag := FlagIs
  (b 0).toNat = (match s.muster.state with
    | .undecided | .normal => 0
    | .drill => 1
    | .muster => 2
    | .standdown => 3) ∧
  (b 1).toNat = (match s.muster.cause with
    | .none => 0
    | .bell => 1
    | .line => 2
    | .command => 3) ∧
  flag (b 2) s.cmd.maint.isSome ∧ flag (b 3) s.muster.standdown.isSome ∧
  number2 b 4 = s.muster.epoch.toNat ∧ number2 b 6 = s.muster.repeats % 65536 ∧
  flag (b 8) s.prog.clockSet ∧ (b 9).toNat = s.prog.day % 256 ∧ number2 b 10 = s.prog.sec / 60 % 65536 ∧
  flag (b 12) s.prog.shift.isSome ∧
  (∀ h, s.prog.shift = some h → (b 13).toNat = h.day % 256 ∧ number2 b 14 = h.minute % 65536 ∧
    (number2 b 16 : Int) = h.minutes % 65536) ∧
  (s.prog.shift = none → (b 13).toNat = 0 ∧ number2 b 14 = 0 ∧ number2 b 16 = 0) ∧
  number2 b 18 = s.notice.tail % 65536 ∧ number2 b 20 = s.notice.head % 65536 ∧
  b 22 = s.cmd.last.seq ∧ b 23 = s.cmd.last.outcome ∧ b 24 = s.cmd.last.flags ∧
  flag (b 25) s.loader.result.degraded ∧
  (b 26).toNat = (match s.loader.result.reason with
    | .none => 0
    | .signature => 1
    | .sum => 2
    | .format => 3) ∧
  (b 27).toNat = (if s.loader.result.clamped = true then 1 else 0) +
    (if s.loader.result.overlap = true then 2 else 0) + (if s.loader.result.skipped = true then 4 else 0) ∧
  (b 28).toNat = s.loader.result.strapIndex % 256 ∧
  (b 29).toNat = (if s.station.table ≠ none then 1 else 0) + (if s.loader.phase = .ready then 2 else 0) ∧
  ∀ j, 30 ≤ j → j < 64 → b j = 0

/-- The bytes of status line 1, the stations (R169). -/
def StationLineBytes (s : State) (b : Nat → Byte) : Prop :=
  let station (x : Option StationIx) : Nat := (x.map Fin.val).getD 255
  (s.station.table = none → ∀ j < 36, (b j).toNat = 255) ∧
  (∀ t, s.station.table = some t → ∀ i : Fin 12,
    FlagIs (b (3 * i.val)) t.entries[i].closed ∧
    (b (3 * i.val + 1)).toNat = station t.entries[i].alternate ∧
    (b (3 * i.val + 2)).toNat = station t.effective[i]) ∧
  ∀ j, 36 ≤ j → j < 64 → b j = 0

/-- The bytes of status line 2, the counters (R169). -/
def CounterLineBytes (s : State) (b : Nat → Byte) : Prop :=
  number2 b 0 = s.path.memFault % 65536 ∧ number2 b 2 = s.cmd.violations % 65536 ∧
  number2 b 4 = s.cmd.overruns % 65536 ∧ number2 b 6 = s.notice.lost % 65536 ∧
  number2 b 8 = s.notice.badHead % 65536 ∧ number2 b 10 = s.route.badSeg % 65536 ∧
  number2 b 12 = s.route.recFault % 65536 ∧ number2 b 14 = s.prog.rejected % 65536 ∧
  number2 b 16 = s.cabin.badHome % 65536 ∧ ∀ j, 18 ≤ j → j < 64 → b j = 0

/-- The ten bytes of screen `i`'s entry in the status block (R169). -/
def ScreenEntryBytes (s : State) (i : Nat) (b : Nat → Byte) : Prop :=
  (s.screen.screens[i]? = none → ∀ j < 10, (b j).toNat = 255) ∧
  ∀ sc, s.screen.screens[i]? = some sc →
    (b 0).toNat = (match sc.watch with
      | .unknown => 0
      | .lit => 1
      | .dark => 2) ∧
    FlagIs (b 1) sc.covered ∧
    (let holds (kind target candidate glyph cost : Nat) : Prop := (b 2).toNat = kind ∧ (b 3).toNat = target % 256 ∧
       (b 4).toNat = candidate % 256 ∧ (b 5).toNat = glyph % 256 ∧ number2 b 6 = cost % 65536
     match s.route.results.getD i .none with
     | .none => holds 0 0 0 0 0
     | .selected target candidate cost glyph => holds 1 target candidate glyph cost
     | .noRoute target => holds 2 (target.getD 255) 0 0 0
     | .fault target => holds 3 target 0 0 0) ∧
    number2 b 8 = sc.srcFault % 65536

/-- The bytes of status line `i`: the head, the stations, the counters, and six screens a line (R169). -/
def StatusLineBytes (s : State) (i : Fin 7) (b : Nat → Byte) : Prop :=
  match i.val with
  | 0 => HeadLineBytes s b
  | 1 => StationLineBytes s b
  | 2 => CounterLineBytes s b
  | k + 3 => (∀ j < 6, ScreenEntryBytes s (6 * k + j) fun o => b (10 * j + o)) ∧ ∀ j, 60 ≤ j → j < 64 → b j = 0

/-! ## What loading leaves (R162, R170) -/

/-- A body has a length that the layout of its known type allows (R170). -/
def BodyFits (type : Nat) (body : List Byte) : Prop :=
  let n := body.length
  (type = 1 ∧ n = 24) ∨ (type = 2 ∧ ∃ k, 1 ≤ k ∧ k ≤ 64 ∧ n = 2 * k) ∨
  (type = 3 ∧ ∃ c, c ≤ 24 ∧ n = 1 + 64 * c ∧ (listByte body 0).toNat = c) ∨
  (type = 4 ∧ n = 512) ∨ (type = 5 ∧ n = 24) ∨ (type = 6 ∧ n = 2304) ∨
  (type = 7 ∧ ∃ k, n = 2 + 4 * k ∧ number2 (listByte body) 0 = k) ∨
  (type = 8 ∧ n = 10) ∨ (type = 9 ∧ n = 8) ∨ (type = 10 ∧ n = 6)

/-- A record of a known type is staged whole, but for the segments from 256 upward (R162, R170). -/
def stagedPart (type : Nat) (body : List Byte) : List Byte := if type = 7 then body.take (2 + 4 * 256) else body

/-- The bytes `l` of records, taken one after another, lead from what is staged to what the loading leaves
(R162, R170). A malformed record is taken as one also where its type is unknown or staged already, the model's
reading (log 23). -/
inductive RecordsStaged : List Byte → Loaded → Loaded → Prop where
  | done (acc : Loaded) : RecordsStaged [] acc acc
  | short (l : List Byte) (acc : Loaded) : 0 < l.length → l.length < 3 →
      RecordsStaged l acc { acc with malformed := true }
  | runsPast (type low high : Byte) (rest : List Byte) (acc : Loaded) :
      rest.length < low.toNat + 256 * high.toNat →
      RecordsStaged (type :: low :: high :: rest) acc { acc with malformed := true }
  | badLength (type low high : Byte) (body rest : List Byte) (acc : Loaded) :
      body.length = low.toNat + 256 * high.toNat → 1 ≤ type.toNat → type.toNat ≤ 10 → ¬ BodyFits type.toNat body →
      RecordsStaged (type :: low :: high :: (body ++ rest)) acc { acc with malformed := true }
  | unknown (type low high : Byte) (body rest : List Byte) (acc out : Loaded) :
      body.length = low.toNat + 256 * high.toNat → type.toNat = 0 ∨ 10 < type.toNat →
      RecordsStaged rest { acc with skipped := true } out →
      RecordsStaged (type :: low :: high :: (body ++ rest)) acc out
  | repeated (type low high : Byte) (body rest : List Byte) (acc out : Loaded) :
      body.length = low.toNat + 256 * high.toNat → BodyFits type.toNat body →
      (∃ q ∈ acc.staging, q.1 = type.toNat) → RecordsStaged rest { acc with skipped := true } out →
      RecordsStaged (type :: low :: high :: (body ++ rest)) acc out
  | staged (type low high : Byte) (body rest : List Byte) (acc out : Loaded) :
      body.length = low.toNat + 256 * high.toNat → BodyFits type.toNat body →
      (∀ q ∈ acc.staging, q.1 ≠ type.toNat) →
      RecordsStaged rest
        { acc with staging := acc.staging ++ [(type.toNat, stagedPart type.toNat body)] } out →
      RecordsStaged (type :: low :: high :: (body ++ rest)) acc out

/-! ## What CHECK leaves (R16, R19, R30 to R32, R72, R80, R86, R93, R132, R163) -/

/-- A window from the ROM is cut to end at the last line of the address space, and disabled if it then
shares a line with an enabled earlier one (R16). -/
def WindowAdmitted (earlier : List (Option Window)) (raw : Window) (got : Option Window) : Prop :=
  let cut : Window := { raw with lines := min raw.lines ((4294967296 - raw.base.toNat) / 64) }
  let shares (w : Window) : Prop :=
    cut.base.toNat < w.base.toNat + 64 * w.lines ∧ w.base.toNat < cut.base.toNat + 64 * cut.lines
  ((∃ w, some w ∈ earlier ∧ shares w) → got = none) ∧
  ((∀ w, some w ∈ earlier → ¬ shares w) → got = some cut)

/-- The windows after CHECK, from the body of the window set record and the cabin count, which is none where
its record is missing (R16, R132, R163). -/
def WindowsChecked (control : Addr) (body : List Byte) (cabins : Option Nat) (c : WindowCheck) : Prop :=
  let base (o : Nat) : Addr := alignLine (field32 (listByte body) o)
  let protect : Window := { base := base 0, lines := (field32 (listByte body) 4).toNat }
  let programme : Window := { base := base 8, lines := 128 }
  let segment : Window := { base := base 12, lines := 4 }
  let cabin (n : Nat) : Window := { base := base 16, lines := (n + 1) / 2 }
  let block : Option Window := some { base := control, lines := 64 }
  let passes (w : Window) : Prop := 4294967296 < w.base.toNat + 64 * w.lines
  (protect.lines = 0 → c.protect = none) ∧
  (protect.lines ≠ 0 → WindowAdmitted [block] protect c.protect) ∧
  WindowAdmitted [block, c.protect] programme c.programme ∧
  WindowAdmitted [block, c.protect, c.programme] segment c.segment ∧
  (cabins = none → c.cabin = none) ∧
  (∀ n, cabins = some n → WindowAdmitted [block, c.protect, c.programme, c.segment] (cabin n) c.cabin) ∧
  (c.clamped = true ↔ passes protect ∨ passes programme ∨ passes segment ∨ ∃ n, cabins = some n ∧ passes (cabin n)) ∧
  (c.overlap = true ↔ (protect.lines ≠ 0 ∧ c.protect = none) ∨ c.programme = none ∨ c.segment = none ∨
    (cabins ≠ none ∧ c.cabin = none))

/-- An entry of the tag class table after CHECK, with its class code and bound screen (R19). -/
def TagChecked (screens code bound : Nat) (c : Checked TagClass) : Prop :=
  (code = 0 → c.value = .general) ∧ (code = 1 → c.value = .corridor) ∧ (code = 2 → c.value = .scanout bound) ∧
  (2 < code → c.value = .general) ∧ (c.clamped = true ↔ (code = 2 ∧ screens ≤ bound) ∨ 2 < code)

/-- A pane record at offset `o` after CHECK, in a frame of `cols` columns and `rows` rows: removed, or cut to
its frame (R31). -/
def PaneChecked (b : Nat → Byte) (o cols rows : Nat) (c : Checked (Option Pane)) : Prop :=
  let w := (b (o + 1)).toNat
  let x := (field16 b (o + 2)).toNat
  let y := (field16 b (o + 4)).toNat
  let h := (field16 b (o + 6)).toNat
  let removed := 5 < (b o).toNat ∨ w = 0 ∨ h = 0 ∨ 64 < w ∨ 1024 < h ∨ cols ≤ x ∨ rows ≤ y
  (removed → c.value = none ∧ c.clamped = true) ∧
  (¬ removed →
    (∃ kind, paneKindOf (b o).toNat = some kind ∧
      c.value = some { kind, x, y, w := min w (cols - x), h := min h (rows - y) }) ∧
    (c.clamped = true ↔ cols < x + w ∨ rows < y + h))

/-- A screen record and its default target after CHECK (R16, R30, R31). -/
def ScreenChecked (b : Nat → Byte) (r : Checked (ScreenConf × Nat)) : Prop :=
  let c := r.value.1
  let stride := (field16 b 12).toNat
  let rows := (field16 b 14).toNat
  let mask := field32 b 20
  let panes := (List.range (min 4 (b 6).toNat)).map fun j => readPane b (24 + 8 * j) (c.stride / 64) c.rows
  c.kind = (match (b 0).toNat with
    | 0 => .wayfinding
    | 1 => .programme
    | _ => .general) ∧
  c.home.val = (if (b 1).toNat ≤ 11 then (b 1).toNat else 0) ∧
  c.language = (if (b 2).toNat ≤ 3 then (b 2).toNat else 0) ∧
  r.value.2 = (if (b 3).toNat ≤ 31 then (b 3).toNat else c.home.val) ∧
  c.deck = (if (b 4).toNat ≤ 19 then (b 4).toNat else 0) ∧
  c.categoryMask = b 5 ∧ c.base = alignLine (field32 b 8) ∧ c.fill = field32 b 16 ∧
  c.stride = min 32768 (max 64 (stride / 64 * 64)) ∧ c.rows = min 4320 (max 1 rows) ∧
  (∀ n < 20, c.deckMask.getLsbD n = if mask = 0 then decide (n = c.deck) else mask.getLsbD n) ∧
  c.panes = panes.filterMap Checked.value ∧
  (∀ j, PaneChecked b (24 + 8 * j) (c.stride / 64) c.rows (readPane b (24 + 8 * j) (c.stride / 64) c.rows)) ∧
  (r.clamped = true ↔ 2 < (b 0).toNat ∨ 11 < (b 1).toNat ∨ 3 < (b 2).toNat ∨ 31 < (b 3).toNat ∨ 19 < (b 4).toNat ∨
    c.stride ≠ stride ∨ c.rows ≠ rows ∨ 2 ^ 20 ≤ mask.toNat ∨ 4 < (b 6).toNat ∨
    (∃ p ∈ panes, p.clamped = true) ∨ 4294967296 < c.base.toNat + c.rows * c.stride)

/-- A station table entry after CHECK, with its state code and alternate code (R72). -/
def StationChecked (state alternate : Nat) (c : Checked Station) : Prop :=
  c.value.closed = decide (state = 1) ∧
  (∀ a : StationIx, c.value.alternate = some a ↔ a.val = alternate) ∧
  (c.clamped = true ↔ 1 < state ∨ (11 < alternate ∧ alternate ≠ 255))

/-- The record of page entry `i` after CHECK, with the protected store as it stands (R80). -/
def PageChecked (protect : Option Window) (b : Nat → Byte) (i : Nat) (c : Checked (Option Page)) : Prop :=
  let slot0 := alignLine (field32 b (16 * i))
  let slot1 := alignLine (field32 b (16 * i + 4))
  let stride := (field16 b (16 * i + 8)).toNat
  let rows := (field16 b (16 * i + 10)).toNat
  let live := (b (16 * i + 12)).toNat
  let inside (a : Addr) : Prop := ∃ w, protect = some w ∧ w.base.toNat ≤ a.toNat ∧
    a.toNat + rows * stride ≤ w.base.toNat + 64 * w.lines
  let blank := slot0 = 0 ∧ slot1 = 0
  let bad := stride % 64 ≠ 0 ∨ stride < 64 ∨ 32768 < stride ∨ rows = 0 ∨ 4320 < rows ∨ ¬ inside slot0 ∨
    ¬ inside slot1
  (blank ∨ bad → c.value = none) ∧
  (¬ blank → ¬ bad → c.value = some { slot0, slot1, stride, rows, live := decide (live = 1) }) ∧
  (c.clamped = true ↔ (¬ blank ∧ bad) ∨ 1 < live)

/-- The attributes of segment `i` after CHECK (R86). -/
def SegmentChecked (b : Nat → Byte) (i : Nat) (c : Checked Segment) : Prop :=
  let length := (field16 b (2 + 4 * i)).toNat
  let kind := (b (2 + 4 * i + 2)).toNat
  let zone := (b (2 + 4 * i + 3)).toNat
  c.value = { length := min 1000 (max 1 length), zone := if zone ≤ 8 then zone else 0, soft := .opened
              kind := match kind with
                | 1 => .openDeck
                | 2 => .bulkheadPassage
                | 3 => .stairUp
                | 4 => .stairDown
                | 5 => .lift
                | _ => .corridor } ∧
  (c.clamped = true ↔ length = 0 ∨ 1000 < length ∨ 5 < kind ∨ 8 < zone)

/-- The timing values after CHECK (R163). -/
def TimingChecked (b : Nat → Byte) (c : Checked Timing) : Prop :=
  let v (o : Nat) : Nat := (field16 b o).toNat
  c.value = { memoryTenths := min 100 (max 1 (v 0)), maintMinutes := min 240 (max 5 (v 2))
              darkMs := min 10000 (max 500 (v 4)), standdownMinutes := min 120 (max 1 (v 6))
              refreshSeconds := min 600 (max 5 (v 8)) } ∧
  (c.clamped = true ↔ v 0 < 1 ∨ 100 < v 0 ∨ v 2 < 5 ∨ 240 < v 2 ∨ v 4 < 500 ∨ 10000 < v 4 ∨ v 6 < 1 ∨ 120 < v 6 ∨
    v 8 < 5 ∨ 600 < v 8)

/-- The notice ring after CHECK: the ROM's, clamped, or the default one where it would pass the top of the
address space (R163). -/
def RingChecked (control : Addr) (b : Nat → Byte) (c : Checked RingConf) : Prop :=
  let base := alignLine (field32 b 0)
  let given := (field16 b 4).toNat
  let mark := (field16 b 6).toNat
  let count := min 1024 (max 16 given)
  let passes := 4294967296 < base.toNat + count * 16
  (passes → c.value = { base := control + 2048, count := 16, watermark := 1 }) ∧
  (¬ passes → c.value = { base, count, watermark := min (count - 1) (max 1 mark) }) ∧
  (c.clamped = true ↔ passes ∨ given < 16 ∨ 1024 < given ∨ mark < 1 ∨ count - 1 < mark)

/-- The contents that CHECK leaves, and what it notes, block by block: each block is that of its staged
record, or the default where the record is missing (R163). -/
def ContentsChecked (control : Addr) (staging : List (Nat × List Byte)) (k : ContentsCheck) : Prop :=
  let c := k.contents
  let body (type : Nat) : Nat → Byte := listByte ((stagedOf staging type).getD [])
  let tagBody := (stagedOf staging 2).getD []
  let count := (field16 (body 10) 0).toNat
  let cabins := (stagedOf staging 10).map fun _ => min 512 (max 1 count)
  let windows : WindowCheck :=
    match stagedOf staging 1 with
    | some l => checkWindows control l cabins
    | none => {}
  let tag (i : Nat) : Checked TagClass := checkTag c.screens.length tagBody i
  let screen (i : Nat) : Checked (ScreenConf × Nat) := checkScreen fun j => body 3 (1 + 64 * i + j)
  let table := alignLine (field32 (body 10) 2)
  let tableInside := ∃ w, c.protect = some w ∧ w.base.toNat ≤ table.toNat ∧
    table.toNat + c.screens.length * 4096 ≤ w.base.toNat + 64 * w.lines
  let segments := (field16 (body 7) 0).toNat
  (∀ l, stagedOf staging 1 = some l → WindowsChecked control l cabins windows) ∧
  c.protect = windows.protect ∧ c.programme = windows.programme ∧ c.segment = windows.segment ∧
  c.cabin = windows.cabin ∧
  (∀ i : Fin 64, c.tags[i] = (tag i.val).value) ∧
  (∀ i, 2 * i < tagBody.length →
    TagChecked c.screens.length (listByte tagBody (2 * i)).toNat (listByte tagBody (2 * i + 1)).toNat (tag i)) ∧
  (∀ i, tagBody.length ≤ 2 * i → tag i = { value := .general, clamped := false }) ∧
  c.screens = (List.range (body 3 0).toNat).map (fun i => (screen i).value) ∧
  (∀ i, ScreenChecked (fun j => body 3 (1 + 64 * i + j)) (screen i)) ∧
  (∀ i : Fin 64, c.glyphs[i] = { base := alignLine (field32 (body 4) (8 * i.val))
                                 width := (body 4 (8 * i.val + 4)).toNat
                                 height := (field16 (body 4) (8 * i.val + 6)).toNat }) ∧
  (stagedOf staging 5 = none → ∀ i : StationIx, c.stations[i] = {}) ∧
  (stagedOf staging 5 ≠ none → ∀ i : StationIx, c.stations[i] = (checkStation (body 5) i.val).value) ∧
  (∀ i, StationChecked (body 5 (2 * i)).toNat (body 5 (2 * i + 1)).toNat (checkStation (body 5) i)) ∧
  c.pages = (List.range 144).map (fun i =>
    if stagedOf staging 6 = none then none else (checkPage c.protect (body 6) i).value) ∧
  (∀ i, PageChecked c.protect (body 6) i (checkPage c.protect (body 6) i)) ∧
  c.segments = (List.range (min 256 segments)).map (fun i => (checkSegment (body 7) i).value) ∧
  (∀ i, SegmentChecked (body 7) i (checkSegment (body 7) i)) ∧
  (stagedOf staging 10 ≠ none → c.screens.length = 0 ∨ tableInside → c.tableBase = some table) ∧
  (stagedOf staging 10 = none ∨ (c.screens.length ≠ 0 ∧ ¬ tableInside) → c.tableBase = none) ∧
  c.cabinCount = (if c.cabin = none then 0 else cabins.getD 0) ∧
  (stagedOf staging 8 = none → c.timing = {}) ∧
  (stagedOf staging 8 ≠ none → c.timing = (checkTiming (body 8)).value) ∧
  TimingChecked (body 8) (checkTiming (body 8)) ∧
  (stagedOf staging 9 = none → c.ring = { base := control + 2048, count := 16, watermark := 1 }) ∧
  (stagedOf staging 9 ≠ none → c.ring = (checkRing control (body 9)).value) ∧
  RingChecked control (body 9) (checkRing control (body 9)) ∧
  k.overlap = windows.overlap ∧
  (k.clamped = true ↔ windows.clamped = true ∨ (∃ i < 64, (tag i).clamped = true) ∨
    (∃ i < c.screens.length, (screen i).clamped = true) ∨
    (stagedOf staging 5 ≠ none ∧ ∃ i < 12, (checkStation (body 5) i).clamped = true) ∨
    (stagedOf staging 6 ≠ none ∧ ∃ i < 144, (checkPage c.protect (body 6) i).clamped = true) ∨
    256 < segments ∨ (∃ i < c.segments.length, (checkSegment (body 7) i).clamped = true) ∨
    (stagedOf staging 10 ≠ none ∧ (count < 1 ∨ 512 < count ∨ c.tableBase = none)) ∨
    (stagedOf staging 8 ≠ none ∧ (checkTiming (body 8)).clamped = true) ∨
    (stagedOf staging 9 ≠ none ∧ (checkRing control (body 9)).clamped = true))

/-! ## Invariants -/

/-- No queue holds more than it has room for (R3, R11, R153). -/
def State.QueuesBounded (s : State) : Prop :=
  s.notice.queue.length ≤ Config.queueSize ∧ s.path.pwq.length ≤ Config.pwqSize ∧
  s.path.iwq.length ≤ Config.iwqSize

/-- The maintenance window is OPEN only in READY, while the muster state is NORMAL and the debounced MAINT
level is asserted (R27). -/
def State.WindowGuarded (s : State) : Prop :=
  s.cmd.maint.isSome = true → s.isReady = true ∧ s.muster.state = .normal ∧ s.lines.maint.deb = true

/-- After start-up the muster state is decided, and it is MUSTER while the debounced MUSTER level is
asserted (R60, R61). -/
def State.LineObeyed (s : State) : Prop :=
  s.started = true → s.muster.state ≠ .undecided ∧ (s.lines.muster.deb = true → s.muster.state = .muster)

/-- The MUSTER_SHOWN line follows its condition (R48). -/
def State.ShownFollows (s : State) : Prop := s.muster.shown = s.shownCondition

/-- A covered screen is LIT, and its plan is of the variant of the present muster state (R39, R47). -/
def State.CoveredSound (s : State) : Prop :=
  ∀ sc ∈ s.screen.screens, sc.covered = true → sc.watch = .lit ∧ ∃ p, sc.plan = some p ∧
    p.variant = match s.muster.state with
      | .undecided | .normal => .none
      | .drill => .drill
      | .muster => .muster
      | .standdown => .allclear

/-- At most 24 screens are present, in the screen table and in what CHECK left for it (R30, R170). -/
def State.ScreensBounded (s : State) : Prop :=
  s.screen.screens.length ≤ 24 ∧ ∀ c, s.loader.checked = some c → c.screens.length ≤ 24

/-- The work list never holds a screen twice, and holds present screens only (R97). -/
def State.WorkSound (s : State) : Prop :=
  s.ScreensBounded ∧ s.route.work.Nodup ∧ ∀ i ∈ s.route.work, i < s.screen.screens.length

/-- A ring's entry count and watermark are in range (R152, R163). -/
def RingConf.Sound (r : RingConf) : Prop :=
  16 ≤ r.count ∧ r.count ≤ 1024 ∧ 1 ≤ r.watermark ∧ r.watermark ≤ r.count - 1

/-- The ring in use is in range, its indices lie in it, the urgent slot is unread, and the IRQ line follows
its condition (R154 to R156). -/
def State.RingSound (s : State) : Prop :=
  s.notice.ring.Sound ∧ (∀ c, s.loader.checked = some c → c.ring.Sound) ∧
  s.notice.head < s.notice.ring.count ∧ s.notice.tail < s.notice.ring.count ∧
  (∀ j, s.notice.urgent = some j → s.notice.ahead j < s.notice.unread) ∧
  s.notice.irq = s.notice.irqCondition

/-- The pending set holds exactly the cabins whose pending class is not NONE, each once, and stands in its
order (R142). -/
def State.PendingSound (s : State) : Prop :=
  s.cabin.pend.Nodup ∧
  (∀ i : Nat, i ∈ s.cabin.pend ↔ ∃ c, s.cabin.cabins[i]? = some c ∧ c.pend ≠ .none) ∧
  s.cabin.pend.Pairwise (fun i j => pendBefore s.cabin.cabins i j = true)

/-- The effective stations are those of the station table (R73, R74). -/
def State.StationsSound (s : State) : Prop :=
  ∀ t, s.station.table = some t → t.effective = allEffective t.entries

/-- The programme list is ordered by start and index, and holds every LISTED entry of the shadow once, with
the fields that the entry's bytes give (R119). -/
def State.ListSound (s : State) : Prop :=
  s.prog.order.Pairwise (fun a b => listedBefore a b = true) ∧
  (s.prog.order.map ListEntry.index).Nodup ∧
  (∀ i : Nat, i ∈ s.prog.order.map ListEntry.index ↔
    ∃ e, s.prog.shadow[i]? = some e ∧ e.status = .listed) ∧
  ∀ x ∈ s.prog.order, ∃ e, s.prog.shadow[x.index]? = some e ∧
    x.start = e.bytes[2].toNat * 1440 + (e.bytes[4].toNat + 256 * e.bytes[5].toNat) ∧
    x.finish = x.start + (e.bytes[6].toNat + 256 * e.bytes[7].toNat) ∧
    x.category = e.bytes[1].toNat ∧ x.deck = e.bytes[8].toNat ∧ x.venue = e.bytes[3].toNat ∧
    x.lead = e.bytes[9].toNat ∧ x.featured = e.bytes[0].getLsbD 1

end Sys2Proof.Machine
end

