-- ==== Sys2Proof/Certificates/Slice0/Obligations.lean ====
section
/-! DEFINITION. The statements about the part, from the numbered rules of the spec. -/

open Sys2Proof Sys2Proof.Machine

/-! ## Steps, reset and the invariants -/

/-- A step takes the command at the front of the queue, and the queue's rest is left. With no command
waiting a tenth of a millisecond passes, outside RESET: every running timer of a request at the MSP advances
by one, and each tenth time the counts of the filters and the other timers advance by a millisecond. That
a tick is what an idle step does, that a count holds at its limit, that no time passes in RESET, and that
a filter counts the started millisecond whole are the model's choices, log 2, log 13 and log 51. -/
def Obligations.StepRunsFrontCommand : Prop :=
  (∀ (c : Instr) (rest : List Instr) (s : State), s.pending = c :: rest →
    step s = exec c { s with pending := rest }) ∧
  (∀ s : State, s.pending = [] → step s = .next s.tick) ∧
  (∀ s : State, s.loader.phase = .reset → s.tick = s) ∧
  ∀ s : State, s.loader.phase ≠ .reset →
    let t := s.tick
    let up (limit : Nat) (timer : Option Nat) : Option Nat := timer.map fun n => min (n + 1) limit
    let limit := s.cfg.timing.memoryTenths
    let path : Path := { s.path with
      pwqTimer := up limit s.path.pwqTimer, iwqTimer := up limit s.path.iwqTimer
      trackers := t.path.trackers, own := t.path.own }
    (∀ (k : Fin 8) (j : Fin 2) (l n : Nat),
      (s.path.readState k l = some (.issued n) → t.path.readState k l = some (.issued (min (n + 1) limit))) ∧
      (s.path.ownState j l = some (.issued n) → t.path.ownState j l = some (.issued (min (n + 1) limit)))) ∧
    (∀ (k : Fin 8) (j : Fin 2) (l : Nat) (st : LineState), (∀ n, st ≠ .issued n) →
      (s.path.readState k l = some st → t.path.readState k l = some st) ∧
      (s.path.ownState j l = some st → t.path.ownState j l = some st)) ∧
    (s.time.tenth < 9 →
      t = { s with path := path, time := { s.time with tenth := s.time.tenth + 1 } }) ∧
    (9 ≤ s.time.tenth →
      let loader : Loader := { s.loader with sinceRelease := min (s.loader.sinceRelease + 1) 220 }
      let debounce (line : InputLine) : Nat :=
        match line with
        | .bell => 0
        | .muster | .maint => 200
        | .fire _ => 100
      (∀ line : InputLine,
        let f := s.lines.get line
        t.lines.get line = { f with
          degCount := if f.raw ≠ f.deg then min (f.degCount + 1) 20 else 0
          debCount := if f.deg ≠ f.deb then min (f.debCount + 1) (debounce line) else 0 }) ∧
      (s.started = false →
        t = { s with
          path := path, time := { s.time with tenth := 0 }, loader := loader, lines := t.lines }) ∧
      (s.started = true →
        t = { s with
          path := path, loader := loader, lines := t.lines
          time := { s.time with tenth := 0, uptimePhase := min (s.time.uptimePhase + 1) 1000 }
          muster := { s.muster with
            standdown := up (s.cfg.timing.standdownMinutes * 60000) s.muster.standdown
            highTimer := up 4000 s.muster.highTimer, gapTimer := up 3000 s.muster.gapTimer }
          screen := { s.screen with
            screens := s.screen.screens.map fun sc => { sc with dark := up s.cfg.timing.darkMs sc.dark } }
          prog := { s.prog with
            phase := if s.prog.clockSet = true then min (s.prog.phase + 1) 1000 else s.prog.phase }
          cmd := { s.cmd with maint := up (s.cfg.timing.maintMinutes * 60000) s.cmd.maint } }))

/-- Every command, in every state, answers a next state, and no command reaches into the queue. The part
has no fault that stops it (log 36). After every command that leads from a started state to a started state,
a status line whose bytes differ is dirty, or an IWQ entry for it that is not yet issued is placed, and every
such entry holds the present bytes. The failure of an IWQ write alone sets no mark. That the comparison is of
the state before and the state after the whole command is the model's reading, log 16. -/
def Obligations.EveryCommandAnswersNext : Prop :=
  (∀ (c : Instr) (s : State), ∃ t, exec c s = .next t ∧ t.pending = s.pending) ∧
  ∀ (c : Instr) (s t : State) (i : Fin 7), s.started = true → t.started = true → exec c s = .next t →
    s.statusLine i ≠ t.statusLine i →
    let waiting : List IwqEntry := if t.path.iwqTimer = none then t.path.iwq else t.path.iwq.tail
    (c ≠ .iwqWriteAnswer .error → c ≠ .memoryTimeout .iwqHead →
      t.notice.dirty[i] = true ∨ ∃ e ∈ waiting, e.kind = .status i) ∧
    ∀ e ∈ waiting, e.kind = .status i → e.data = t.statusLine i

/-- Every invariant holds right after reset. That the ring has 16 entries and watermark 1 before start-up ends
is the model's choice, log 13, and the invariant of the ring rests on it there. -/
def Obligations.InvariantsAtReset : Prop :=
  State.reset.QueuesBounded ∧ State.reset.WindowGuarded ∧ State.reset.LineObeyed ∧
  State.reset.ShownFollows ∧ State.reset.CoveredSound ∧ State.reset.WorkSound ∧ State.reset.RingSound ∧ State.reset.PendingSound ∧
  State.reset.StationsSound ∧ State.reset.ListSound

/-- No step leaves a queue with more than it has room for. -/
def Obligations.QueuesBoundedKept : Prop :=
  ∀ s t : State, s.QueuesBounded → step s = .next t → t.QueuesBounded

/-- Every step keeps the maintenance window OPEN only in READY, while the muster state is NORMAL and the
debounced MAINT level is asserted. Every step keeps the muster state MUSTER while the debounced MUSTER
level is asserted. -/
def Obligations.MusterGuardsKept : Prop :=
  (∀ s t : State, s.WindowGuarded → step s = .next t → t.WindowGuarded) ∧
  ∀ s t : State, s.LineObeyed → step s = .next t → t.LineObeyed

/-- Every step keeps the MUSTER_SHOWN line at its condition. Every step keeps the covered flags, of which that
condition is made, at screens that are LIT and have a plan of the variant of the present muster state. -/
def Obligations.ShownFollowsKept : Prop :=
  (∀ s t : State, s.ShownFollows → step s = .next t → t.ShownFollows) ∧
  ∀ s t : State, s.CoveredSound → step s = .next t → t.CoveredSound

/-- Every step keeps the work list without repeats and within the screens present. -/
def Obligations.WorkSoundKept : Prop := ∀ s t : State, s.WorkSound → step s = .next t → t.WorkSound

/-- Every step keeps the ring's indices and limits in range, the urgent slot unread and the IRQ line at its
condition. -/
def Obligations.RingSoundKept : Prop := ∀ s t : State, s.RingSound → step s = .next t → t.RingSound

/-- Every step keeps the pending set at the cabins whose pending class is not NONE, each once, in the order of
eligible second, then URGENT before ROUTINE, then cabin index. -/
def Obligations.PendingSoundKept : Prop := ∀ s t : State, s.PendingSound → step s = .next t → t.PendingSound

/-- Every step keeps the effective stations at those of the station table. Every step keeps the programme list
in the order of start and index, with every LISTED entry of the shadow once and no other entry, and with the
start, the end, the category, the deck, the venue, the lead and the featured flag that the entry's bytes
give. -/
def Obligations.TablesSoundKept : Prop :=
  (∀ s t : State, s.StationsSound → step s = .next t → t.StationsSound) ∧
  ∀ s t : State, s.ListSound → step s = .next t → t.ListSound

/-- After start-up the muster state leaves MUSTER only to STANDDOWN, and only through an ALL CLEAR command
(code 4 stands in the slot's copy) taken while the debounced MUSTER level is deasserted. Reset and the end
of start-up are the exceptions. -/
def Obligations.MusterLeftOnlyByAllClear : Prop :=
  ∀ (c : Instr) (s t : State), s.muster.state = .muster → s.started = true → c ≠ .reset →
    exec c s = .next t → t.muster.state ≠ .muster →
    t.muster.state = .standdown ∧ s.lines.muster.deb = false ∧ vecByte t.cmd.copy 0 = 4 ∧
    t.muster.epoch = s.muster.epoch ∧ t.muster.cause = s.muster.cause

/-- While the maintenance window is CLOSED no command puts a write to a PROTECTED line into the PWQ. -/
def Obligations.ClosedWindowGuardsStore : Prop :=
  ∀ (c : Instr) (s t : State), s.cmd.maint = none → exec c s = .next t →
    ∀ e ∈ t.path.pwq, e ∈ s.path.pwq ∨ s.cfg.classOf e.addr ≠ .protect

/-! ## The memory path -/

/-- A WRITE that arrives before start-up has ended, or that finds too few PWQ entries free and is not
dropped, is answered RETRY. A READ is answered RETRY before start-up has ended or when no tracker is free.
RETRY leaves no trace. That RETRY is the answer in RESET too is the model's choice, log 5. -/
def Obligations.RetryLeavesNoTrace : Prop :=
  (∀ (req : WriteReq) (s : State),
    (s.started = false ∨
      (s.protectionCheck ((List.range req.lines.length).map fun i => nthLine (lineAddr req.first) i) = none ∧
        s.path.pwqFree < req.lines.length)) →
    exec (.pspWrite req) s = .next { s with port := { s.port with psp := some .retry } }) ∧
  ∀ (tag : Tag) (first : LineNo) (count : Nat) (s : State),
    (s.started = false ∨ ∀ i : Fin 8, s.path.trackers[i] ≠ none) →
    exec (.pspRead tag first count) s = .next { s with port := { s.port with psp := some .retry } }

/-- A WRITE that passes the protection check and finds room is accepted whole: its lines join the tail of the
PWQ in the request's order, first line first, under one sequence number, and each is then delivered, in the
same order and in the state that the line before it has left. The deliveries leave the queue, the trackers, the
arbiter and the lines alone. Lines that are PROTECTED or PLAIN, and the lines of the control block from its
third on (the tail word, the status block and what is unused), have no consumer: where there are no others
nothing else changes. A line of the ring descriptor: the copy takes the enabled bytes, and nothing else
follows unless a byte of the head index is enabled; then the head is tested as HEAD_INDEX_WRITE tests it. A
line of the command slot: the copy takes the enabled bytes of the command word and the arguments, and the
result word's have no consumer. With no byte of the command word enabled, or with the code 0 in the copy then,
nothing else follows. With another code there a slot that is EXECUTING counts an overrun, and an IDLE one
starts the command that the copy spells, old bytes and new. The request's order is address order; that it is
the order too of a request which wraps past the top of the address space, the top lines first, is the model's
choice, log 45. One number for the whole write is the model's choice, log 7. -/
def Obligations.WriteAccepted : Prop :=
  ∀ (req : WriteReq) (s : State), s.started = true →
    s.protectionCheck ((List.range req.lines.length).map fun i => nthLine (lineAddr req.first) i) = none →
    req.lines.length ≤ s.path.pwqFree →
    let lines := req.lines.mapIdx fun i w => (nthLine (lineAddr req.first) i, w)
    let accepted := s.accepted lines
    (∃ t, exec (.pspWrite req) s = .next t ∧
      t.port = { s.port with psp := some .accept } ∧
      t.path = { s.path with
        pwq := s.path.pwq ++ req.lines.mapIdx fun i w =>
          { addr := nthLine (lineAddr req.first) i, data := w.data, en := w.en, seq := s.path.seq }
        seq := s.path.seq + 1, iwq := t.path.iwq, own := t.path.own } ∧
      t.loader = s.loader ∧ t.time = s.time ∧ t.cfg = s.cfg ∧ t.lines = s.lines) ∧
    RunsTo (.pspWrite req) s (lines.foldl (fun u q => u.deliverLine s.path.seq q.1 q.2) accepted) ∧
    ((∀ q ∈ lines, s.cfg.classOf q.1 = .plain ∨ s.cfg.classOf q.1 = .protect ∨
        (s.cfg.classOf q.1 = .control ∧ ∃ base, s.cfg.control = some base ∧ base.toNat + 128 ≤ q.1.toNat)) →
      exec (.pspWrite req) s = .next accepted) ∧
    ∀ (w : WriteLine) (base : Addr), req.lines = [w] → s.cfg.control = some base →
      base.toNat + 4096 ≤ 4294967296 →
      (lineAddr req.first = base + 64 →
        let copied (n : Nat) : NoticeUnit := { s.notice with desc := Vector.ofFn fun i =>
          if i.val < n ∧ w.en[i.val]'(by omega) = true then w.data[i.val]'(by omega) else s.notice.desc[i] }
        (w.en[8] = false → w.en[9] = false →
          exec (.pspWrite req) s = .next { accepted with notice := copied 8 }) ∧
        (w.en[8] = true ∨ w.en[9] = true → ∃ t,
          exec (.headIndexWrite req.tag (w.data[9] ++ w.data[8]) w.en[8] w.en[9])
            { s with notice := copied 8 } = .next t ∧
          exec (.pspWrite req) s = .next { t with path := { t.path with pwq := accepted.path.pwq } })) ∧
      (lineAddr req.first = base →
        let copy : Vector Byte 28 := Vector.ofFn fun i =>
          if w.en[i.val]'(by omega) = true then w.data[i.val]'(by omega) else s.cmd.copy[i]
        let written := w.en[0] = true ∨ w.en[1] = true ∨ w.en[2] = true ∨ w.en[3] = true
        (¬ written ∨ copy[0] = 0 →
          exec (.pspWrite req) s = .next { accepted with cmd := { s.cmd with copy := copy } }) ∧
        (written → copy[0] ≠ 0 → s.cmd.executing = true →
          RunsTo (.pspWrite req) s { accepted with cmd := { s.cmd with
            copy := copy, overruns := min (s.cmd.overruns + 1) 65535, overrunMark := true } }) ∧
        (written → copy[0] ≠ 0 → s.cmd.executing = false →
          ∀ (c : Instr) (args : List Word), slotCommand c = some (copy[0], copy[1], args) →
            (∀ tag seq code, c = .unknownCommand tag seq code → 17 < code.toNat) →
            (∀ (k : Nat) (a : Word), args[k]? = some a → a.toNat = number4 (vecByte copy) (4 + 4 * k)) →
            ∃ t, exec c s = .next t ∧ exec (.pspWrite req) s = .next { t with
              path := { t.path with pwq := accepted.path.pwq }, cmd := { t.cmd with copy := copy } }))

/-- A WRITE with a PROTECTED line is dropped while the maintenance window is CLOSED, and dropped while it is
OPEN if a line of it lies in a live extent. A dropped write is answered ACCEPT and counted, and the first
one in an uptime second is reported with the first PROTECTED line, or the first line in a live extent. -/
def Obligations.ProtectedWriteDropped : Prop :=
  ∀ (req : WriteReq) (s : State) (a : Addr) (reason : DropReason), s.started = true →
    ((s.cmd.maint = none ∧ reason = .closed ∧
        ((List.range req.lines.length).map fun i => nthLine (lineAddr req.first) i).find?
          (fun x => decide (s.cfg.classOf x = .protect)) = some a) ∨
      (s.cmd.maint.isSome = true ∧ reason = .livePage ∧
        (∃ x ∈ (List.range req.lines.length).map fun i => nthLine (lineAddr req.first) i,
          s.cfg.classOf x = .protect) ∧
        ((List.range req.lines.length).map fun i => nthLine (lineAddr req.first) i).find? s.inLiveExtent =
          some a)) →
    RunsTo (.pspWrite req) s { s with
      port := { s.port with psp := some .accept }
      cmd := { s.cmd with violations := min (s.cmd.violations + 1) 65535, noticeMark := some s.time.uptime }
      notice :=
        if s.cmd.noticeMark = some s.time.uptime then s.notice
        else s.notice.push
          { kind := .protectViolation, urgent := false, subject := a, detail := dropCode reason
            epoch := s.muster.epoch, stamp := s.time.uptime } }

/-- A READ by a tag that is not SCANOUT, or is bound to a screen that is not present, is accepted into a free
tracker: every line passes through, HELD behind the youngest PWQ entry to its address, or READY if there is
none. Nothing else changes. That a line of an absent screen passes through is R19's; the tracker is the
lowest-numbered free one in the model, and the statement asks for any (log 6). -/
def Obligations.ReadAccepted : Prop :=
  ∀ (tag : Tag) (first : LineNo) (count : Nat) (s : State), s.started = true →
    (∀ i, s.cfg.tags[tag] = .scanout i → s.screen.screens[i]? = none) →
    (∃ i : Fin 8, s.path.trackers[i] = none) →
    ∃ k : Fin 8, s.path.trackers[k] = none ∧
      exec (.pspRead tag first count) s = .next { s with path := { s.path with
        seq := s.path.seq + 1
        trackers := s.path.trackers.set k (some
          { tag, seq := s.path.seq, failed := false
            lines := (List.range count).map fun i =>
              { addr := nthLine (lineAddr first) i, res := .pass
                st := match (s.path.pwq.filter fun e => decide (e.addr = nthLine (lineAddr first) i)).getLast? with
                  | some e => .held e.seq
                  | none => .ready } }) } }

/-- A scan-out read of 1 to 4 lines is accepted into a free tracker under its number. A line at offset 0 of
the screen's frame is a frame start: a new plan is latched from the state that stands, the screen is LIT and
covered with its dark timer restarted, and that line and the later lines of the read are resolved with the new
plan; the earlier ones with the plan that stood. A line of the frame is resolved by its row and column, or
passes through where there is no plan; a line out of the frame passes through. A fill line is ARRIVED with the
screen's fill pixel; any other is HELD behind the youngest PWQ entry to its resolved address, or READY. A DARK
screen gives SCREEN_LIT, and where the report mark is set and every LIT screen is then covered,
COVERAGE_COMPLETE follows it (the model's order, log 27). A read without a frame start changes the path alone.
The plan holds the variant, the override page or fill, and one entry a pane, by the kind of the pane and the
variant; a caption address has its low six bits cleared before it is tested for 0, the model's choice,
log 21. -/
def Obligations.FrameStartLatchesPlan : Prop :=
  (∀ (tag : Tag) (first : LineNo) (count : Nat) (s : State) (i : Nat) (sc : Screen), s.started = true →
    s.cfg.tags[tag] = .scanout i → s.screen.screens[i]? = some sc → (∃ k : Fin 8, s.path.trackers[k] = none) →
    count ≤ 4 →
    let addr (j : Nat) : Addr := lineAddr first + BitVec.ofNat 32 (64 * j)
    let offset (j : Nat) : Nat := (addr j).toNat - sc.conf.base.toNat
    let inFrame (j : Nat) : Bool :=
      decide (sc.conf.base.toNat ≤ (addr j).toNat) && decide (offset j < sc.conf.rows * sc.conf.stride)
    let starts (j : Nat) : Bool := inFrame j && decide (offset j = 0)
    let p := s.latchPlan i sc
    let governs (j : Nat) : Option Plan := if (List.range (j + 1)).any starts = true then some p else sc.plan
    let res (j : Nat) : Resolution :=
      match inFrame j, governs j with
      | true, some g =>
        planLine s.screen.glyphs sc.conf.panes g (offset j / sc.conf.stride) (offset j % sc.conf.stride / 64)
      | _, _ => .pass
    let waits (a : Addr) : LineState :=
      match (s.path.pwq.filter fun e => decide (e.addr = a)).getLast? with
      | some e => .held e.seq
      | none => .ready
    let line (j : Nat) : ReadLine :=
      { addr := addr j, res := res j
        st := match res j with
          | .fill => .arrived (Vector.ofFn fun b => sc.conf.fill.extractLsb' (8 * (b.val % 4)) 8)
          | .pass => waits (addr j)
          | .subst a => waits a }
    ∃ (t : State) (k : Fin 8), exec (.pspRead tag first count) s = .next t ∧ s.path.trackers[k] = none ∧
      t.path = { s.path with
        seq := s.path.seq + 1, iwq := t.path.iwq
        trackers := s.path.trackers.set k (some
          { tag, seq := s.path.seq, failed := false, lines := (List.range count).map line }) } ∧
      List.Forall₂ SameWrite s.path.iwq t.path.iwq ∧
      ((List.range count).any starts = false → t = { s with path := { t.path with iwq := s.path.iwq } }) ∧
      ((List.range count).any starts = true →
        let report := coverageReport s.screen.mark t
        t.screen = { s.screen with
          mark := s.screen.mark && report.isEmpty
          screens := s.screen.screens.set i
            { sc with plan := some p, watch := .lit, dark := some 0, covered := true } } ∧
        t.muster = { s.muster with shown := t.shownCondition } ∧
        NoticesHanded s.notice t.notice
          ((if sc.watch = .dark then
              [{ kind := .screenLit, urgent := false, subject := BitVec.ofNat 32 i, detail := 0
                 epoch := s.muster.epoch, stamp := s.time.uptime }]
            else []) ++ report) ∧
        t = { s with path := t.path, screen := t.screen, muster := t.muster, notice := t.notice })) ∧
  (∀ (s : State) (i : Nat) (sc : Screen), s.muster.state ≠ .undecided →
    let p := s.latchPlan i sc
    let r := s.route.results.getD i .none
    let target := s.presentTarget i sc
    let sel := s.selectionOf i
    let caption (e o : Nat) : Addr := match s.prog.shadow[e]? with
      | some x => (vecByte x.bytes (o + 3) ++ vecByte x.bytes (o + 2) ++ vecByte x.bytes (o + 1) ++
          vecByte x.bytes o) &&& 0xFFFFFFC0#32
      | none => 0
    p.epoch = s.muster.epoch ∧ p.faultMark = false ∧
    p.entries = sc.conf.panes.map (fun q => s.paneEntry p.variant i sc q) ∧
    (s.muster.state = .normal → p.variant = .none ∧ p.override = .none ∧
      ∀ q ∈ sc.conf.panes, s.paneEntry p.variant i sc q = match q.kind with
        | .arrow => match sc.conf.kind, r, target with
          | .wayfinding, .selected a _ _ g, .at b => if a = b then .glyph g else .inactive
          | _, _, _ => .inactive
        | .station | .banner => .inactive
        | .now => match sel.now with
          | some e => if caption e 16 = 0 then .inactive else .caption (caption e 16)
          | none => .inactive
        | .next => match sel.next with
          | some e => if caption e 20 = 0 then .inactive else .caption (caption e 20)
          | none => .inactive
        | .countdown => match sel.next, sel.countdown with
          | some _, some n => if n ≤ 99 then .digits (32 + n / 10) (32 + n % 10) else .digits 42 42
          | _, _ => .inactive) ∧
    ∀ v index banner, (s.muster.state = .drill ∧ v = Variant.drill ∧ index = 0 ∧ banner = 48) ∨
        (s.muster.state = .muster ∧ v = Variant.muster ∧ index = 1 ∧ banner = 49) ∨
        (s.muster.state = .standdown ∧ v = Variant.allclear ∧ index = 2 ∧ banner = 50) →
      p.variant = v ∧
      (let home := (s.effective sc.conf.home).getD sc.conf.home
       let n := home.val * 12 + sc.conf.language * 3 + index
       p.override = match s.station.pages[n]? with
         | some (some g) => .page n g.live (if g.live = true then g.slot1 else g.slot0) g.stride g.rows
         | _ => .fill) ∧
      ∀ q ∈ sc.conf.panes, s.paneEntry v i sc q = match q.kind with
        | .banner => .glyph banner
        | .arrow => if v = .allclear then .inactive else match r, target with
          | .none, _ => .inactive
          | .selected a _ _ g, .at b => if a = b then .glyph g else .glyph 10
          | _, _ => .glyph 10
        | .station => if v = .allclear then .inactive else match s.effective sc.conf.home with
          | some e => .glyph (16 + e.val)
          | none => .glyph 10
        | .now | .next | .countdown => .inactive)

/-- A line inside an active pane is drawn by the first such pane in list order: a glyph, the half of a
countdown that the column falls in, or a caption, at the line's own row and column of the pane. Outside a
glyph it is fill. A line in no active pane is resolved by the override: it passes through, is fill, or
comes from the page where the page holds it and is fill elsewhere. -/
def Obligations.PlanLineSources : Prop :=
  ∀ (glyphs : Vector Glyph 64) (panes : List Pane) (plan : Plan) (row col : Nat),
    let line := planLine glyphs panes plan row col
    let drawn (g r c : Nat) : Prop := ∀ gl, glyphs[g]? = some gl →
      line = if r < gl.height ∧ c < gl.width then .subst (gl.base + BitVec.ofNat 32 ((r * gl.width + c) * 64))
        else .fill
    let holds (q : Pane × PaneEntry) : Prop := q.2 ≠ .inactive ∧ q.1.y ≤ row ∧ row < q.1.y + q.1.h ∧
      q.1.x ≤ col ∧ col < q.1.x + q.1.w
    (∀ front p e back, panes.zip plan.entries = front ++ (p, e) :: back → holds (p, e) →
      (∀ q ∈ front, ¬ holds q) →
      let r := row - p.y
      let c := col - p.x
      (∀ g, e = .glyph g → drawn g r c) ∧
      (∀ tens units, e = .digits tens units →
        (c < p.w / 2 → drawn tens r c) ∧ (p.w / 2 ≤ c → drawn units r (c - p.w / 2))) ∧
      ∀ base, e = .caption base → line = .subst (base + BitVec.ofNat 32 ((r * p.w + c) * 64))) ∧
    ((∀ q ∈ panes.zip plan.entries, ¬ holds q) →
      (plan.override = .none → line = .pass) ∧
      (plan.override = .fill → line = .fill) ∧
      ∀ n slot base stride rows, plan.override = .page n slot base stride rows →
        line = if row < rows ∧ col < stride / 64 then .subst (base + BitVec.ofNat 32 (row * stride + col * 64))
          else .fill)

/-- Each ring picks, of its sources with work, the first after its last-granted source in the fixed cycle. A
grant goes to the low ring when eight high-ring grants stand and the low ring has work; else to the high
ring if it has work; else to the low ring. The high ring's grant raises the count, which holds at 8, and the
low ring's sets it to 0. A grant to reads issues the lowest-addressed READY line of the oldest tracker of its
class, to the PWQ head or the IWQ head that write, and to own reads the lowest-addressed READY line of
tracker 0, or of 1 if 0 has none; the IWQ head and own-read lines take turns. What is issued is outstanding
from then. That grants are commands of their own, the lowest address by number, and that the turn of the two
passes at every own grant, also where only one of them had work, are the model's choices, log 28, log 8 and
log 9. -/
def Obligations.ArbiterGrants : Prop :=
  (∀ (s : State) (high low : Option Source),
    let scanning (t : Tracker) : Prop := ∃ i, s.cfg.tags[t.tag] = .scanout i
    let waits (t : Tracker) : Prop := ∃ q ∈ t.lines, q.st = .ready
    let ownWaits (k : Fin 2) : Prop := ∃ lines, s.path.own[k] = some lines ∧ ∃ q ∈ lines, q.st = .ready
    let iwqWaits : Prop := s.path.iwq ≠ [] ∧ s.path.iwqTimer = none
    let inRing (isHigh : Bool) (c : Source) : Prop := isHigh = true ↔ c = .scanout ∨ (c = .own ∧
      (s.muster.state = .drill ∨ s.muster.state = .muster ∨ s.muster.state = .standdown))
    let works (c : Source) : Prop :=
      match c with
      | .scanout => ∃ (k : Fin 8) (t : Tracker), s.path.trackers[k] = some t ∧ scanning t ∧ waits t
      | .otherReads => ∃ (k : Fin 8) (t : Tracker), s.path.trackers[k] = some t ∧ ¬ scanning t ∧ waits t
      | .pwqHead => s.path.pwq ≠ [] ∧ s.path.pwqTimer = none
      | .own => iwqWaits ∨ ∃ k, ownWaits k
    let number (c : Source) : Nat :=
      match c with
      | .scanout => 0
      | .otherReads => 1
      | .pwqHead => 2
      | .own => 3
    let turn (last : Option Source) (c : Source) : Nat :=
      match last with
      | some l => (number c + 3 - number l) % 4
      | none => number c
    let picks (isHigh : Bool) (last pick : Option Source) : Prop :=
      (pick = none → ∀ c, inRing isHigh c → ¬ works c) ∧
      ∀ c, pick = some c → inRing isHigh c ∧ works c ∧ ∀ d, inRing isHigh d → works d → turn last c ≤ turn last d
    picks true s.path.lastHigh high → picks false s.path.lastLow low →
    let granted : Option (Bool × Source) :=
      match high, low with
      | some h, some l => if s.path.highCount = 8 then some (false, l) else some (true, h)
      | some h, none => some (true, h)
      | none, some l => some (false, l)
      | none, none => none
    (granted = none → exec .arbiterGrant s = .next s) ∧
    ∀ (isHigh : Bool) (c : Source), granted = some (isHigh, c) →
      let p : Path :=
        if isHigh = true then { s.path with lastHigh := some c, highCount := min (s.path.highCount + 1) 8 }
        else { s.path with lastLow := some c, highCount := 0 }
      let issues (p' : Path) (r : MspRequest) : Prop :=
        exec .arbiterGrant s = .next { s with path := p', port := { s.port with msp := some r } }
      (∃ t, exec .arbiterGrant s = .next t ∧
        t = { s with port := t.port, path := { p with
          pwqTimer := t.path.pwqTimer, iwqTimer := t.path.iwqTimer, trackers := t.path.trackers
          own := t.path.own, iwqNext := t.path.iwqNext } }) ∧
      (∀ (k : Fin 8) (t : Tracker) (l : Fin 4) (q : ReadLine),
        (c = .scanout ∧ scanning t) ∨ (c = .otherReads ∧ ¬ scanning t) →
        s.path.trackers[k] = some t → t.lines[l.val]? = some q → q.st = .ready →
        (∀ (j : Fin 8) (u : Tracker), j ≠ k → s.path.trackers[j] = some u → (scanning u ↔ scanning t) → waits u →
          t.seq < u.seq) →
        (∀ (m : Nat) (r : ReadLine), m ≠ l.val → t.lines[m]? = some r → r.st = .ready →
          q.addr.toNat < r.addr.toNat) →
        issues { p with trackers := s.path.trackers.set k (some
            { t with lines := t.lines.set l.val { q with st := .issued 0 } }) }
          (.read (.readLine k l) (match q.res with
            | .subst b => b
            | .pass | .fill => q.addr))) ∧
      (∀ e rest, c = .pwqHead → s.path.pwq = e :: rest →
        issues { p with pwqTimer := some 0 } (.write .pwqHead e.addr e.data e.en)) ∧
      (∀ e rest, c = .own → s.path.iwq = e :: rest → iwqWaits →
        s.path.iwqNext = true ∨ (∀ k, ¬ ownWaits k) →
        issues { p with iwqTimer := some 0, iwqNext := false } (.write .iwqHead e.addr e.data e.en)) ∧
      ∀ (k : Fin 2) (lines : List OwnLine) (l : Fin 4) (q : OwnLine), c = .own →
        ¬ iwqWaits ∨ s.path.iwqNext = false → k = 0 ∨ ¬ ownWaits 0 →
        s.path.own[k] = some lines → lines[l.val]? = some q → q.st = .ready →
        (∀ (m : Nat) (r : OwnLine), m ≠ l.val → lines[m]? = some r → r.st = .ready →
          q.addr.toNat < r.addr.toNat) →
        issues { p with own := s.path.own.set k (some (lines.set l.val { q with st := .issued 0 })), iwqNext := true }
          (.read (.ownLine k l) q.addr)) ∧
  ∀ (s : State) (e : PwqEntry) (rest : List PwqEntry), s.path.pwq = e :: rest → s.path.pwqTimer = none →
    (∀ c, s.hasWork c = true → c = .pwqHead) →
    exec .arbiterGrant s = .next { s with
      port := { s.port with msp := some (.write .pwqHead e.addr e.data e.en) }
      path := { s.path with pwqTimer := some 0, lastLow := some .pwqHead, highCount := 0 } }

/-- The outstanding PWQ head leaves at memory's answer. DONE does nothing else than release the lines held
behind it; ERROR also counts a memory fault and queues a MEMORY_FAULT notice. A departing PWQ entry moves
the lines held behind it, of PSP reads and of own reads, and those alone, from HELD to READY. The outstanding
IWQ head leaves at memory's answer; ERROR also counts a memory fault, which sets no dirty mark. No notice is
queued. -/
def Obligations.QueueHeadsLeave : Prop :=
  (∀ (s : State) (e : PwqEntry) (rest : List PwqEntry) (n : Nat), s.path.pwq = e :: rest →
      s.path.pwqTimer = some n →
      let p : Path := { s.path with
        pwq := rest, pwqTimer := none
        trackers := s.path.trackers.map (Option.map (Tracker.release e))
        own := s.path.own.map (Option.map (List.map (OwnLine.release e))) }
      exec (.pwqWriteAnswer .done) s = .next { s with path := p } ∧
      RunsTo (.pwqWriteAnswer .error) s { s with
        path := { p with memFault := min (s.path.memFault + 1) 65535 }
        notice := s.notice.push
          { kind := .memoryFault, urgent := false, subject := e.addr, detail := 1
            epoch := s.muster.epoch, stamp := s.time.uptime } }) ∧
  (∀ (e : PwqEntry) (l : ReadLine),
      (l.st = .held e.seq → l.source = e.addr → l.release e = { l with st := .ready }) ∧
      ((∀ b, l.st = .held b → b ≠ e.seq ∨ l.source ≠ e.addr) → l.release e = l) ∧
      l.source = match l.res with
        | .subst a => a
        | .pass | .fill => l.addr) ∧
  (∀ (e : PwqEntry) (l : OwnLine),
      (l.st = .held e.seq → l.addr = e.addr → l.release e = { l with st := .ready }) ∧
      ((∀ b, l.st = .held b → b ≠ e.seq ∨ l.addr ≠ e.addr) → l.release e = l)) ∧
  ∀ (s : State) (e : IwqEntry) (rest : List IwqEntry) (n : Nat), s.path.iwq = e :: rest →
    s.path.iwqTimer = some n →
    exec (.iwqWriteAnswer .done) s = .next { s with path := { s.path with iwq := rest, iwqTimer := none } } ∧
    ∃ t, exec (.iwqWriteAnswer .error) s = .next t ∧ t.notice = s.notice ∧
      StatusFollows { s with path := { s.path with
        iwq := rest, iwqTimer := none, memFault := min (s.path.memFault + 1) 65535 } } t

/-- An ISSUED line that memory answers with data becomes ARRIVED with that data, where the Cabin unit does not
rewrite it. An ISSUED line of a CORRIDOR tag in the cabin window becomes ARRIVED with its records rewritten,
and each of its present cabins is refreshed, the lower first, with its notified flag clear. A complete refresh
takes the cabin out of the pending set. An incomplete one, a write to the record having been accepted after
the read, leaves it ROUTINE and eligible at the refresh plus the interval (beyond the last uptime second the
value is free, log 11), and every eligible cabin whose notified flag is clear is notified, in set order. The
cabins of other lines stand but for their notified flags. An URGENT cause that was taken before the refresh,
that of a station recomputation too, is cleared by a complete one: so R145, which the model follows on this where
R79 speaks of a further refresh, log 44. That a line of a read which has failed is rewritten and counts as a
refresh is the model's choice, log 22. -/
def Obligations.LinesArrive : Prop :=
  (∀ (s : State) (k : Fin 8) (l : Fin 4) (d : LineData) (t : Tracker) (q : ReadLine) (n : Nat),
      s.path.trackers[k] = some t → t.lines[l.val]? = some q → q.st = .issued n →
      s.cfg.tags[t.tag] ≠ .corridor ∨ s.cfg.classOf q.addr ≠ .cabin →
      exec (.readLineData k l d) s = .next { s with path := { s.path with
        trackers := s.path.trackers.set k (some
          { t with lines := t.lines.set l.val { q with st := .arrived d } }) } }) ∧
  ∀ (s : State) (k : Fin 8) (l : Fin 4) (d : LineData) (t : Tracker) (q : ReadLine) (n line : Nat),
    s.path.trackers[k] = some t → t.lines[l.val]? = some q → q.st = .issued n →
    s.cfg.tags[t.tag] = .corridor → s.cfg.classOf q.addr = .cabin → indexIn s.cfg.cabin q.addr = line →
    ∃ (u : State) (first : CabinUnit) (ns ns' : List Notice), exec (.readLineData k l d) s = .next u ∧
      u.path = { s.path with
        iwq := u.path.iwq
        trackers := s.path.trackers.set k (some
          { t with lines := t.lines.set l.val { q with st := .arrived (s.rewriteCabinLine line d) } }) } ∧
      RefreshObserved s t.seq (2 * line) s.cabin first ns ∧
      RefreshObserved s t.seq (2 * line + 1) first u.cabin ns' ∧
      NoticesHanded s.notice u.notice (ns ++ ns') ∧
      (∀ (i : Nat) (x : Cabin), i / 2 ≠ line → s.cabin.cabins[i]? = some x →
        ∃ y, u.cabin.cabins[i]? = some y ∧ y = { x with notified := y.notified }) ∧
      u.cabin.badHome = s.cabin.badHome ∧ u.port = s.port ∧
      u.loader = s.loader ∧ u.time = s.time ∧ u.cfg = s.cfg ∧ u.lines = s.lines ∧ u.muster = s.muster ∧
      u.screen = s.screen ∧ u.station = s.station ∧ u.route = s.route ∧ u.prog = s.prog ∧ u.cmd = s.cmd

/-- Line k of the cabin window holds the record of cabin 2k at offset 0 and that of cabin 2k + 1 at offset 32.
In DRILL, MUSTER and STANDDOWN the record of a present cabin is rewritten in its two flags, its banner code and
its shown station, and in nothing else. The shown station is the effective station of the home station the
table holds, or 15. In NORMAL it is as memory returned it, and so is a record at or above the cabin count in
every state. -/
def Obligations.CabinRecordRewritten : Prop :=
  ∀ (s : State) (k : Nat) (d : LineData) (half : Fin 2),
    let r := s.rewriteCabinLine k d
    let o := 32 * half.val
    let same := ∀ j : Fin 64, o ≤ j.val → j.val < o + 32 → r[j] = d[j]
    (s.cabin.cabins.length ≤ 2 * k + half.val → same) ∧
    ∀ c : Cabin, s.cabin.cabins[2 * k + half.val]? = some c →
      (s.muster.state = .normal → same) ∧
      ∀ st banner, s.muster.state = st →
        ((st = .drill ∧ banner = 1) ∨ (st = .muster ∧ banner = 2) ∨ (st = .standdown ∧ banner = 3)) →
        (∀ j : Fin 64, o ≤ j.val → j.val < o + 32 → j.val ≠ o → j.val ≠ o + 2 → j.val ≠ o + 3 → r[j] = d[j]) ∧
        (vecByte r o).extractLsb' 0 2 = 0 ∧ (vecByte r o).extractLsb' 2 6 = (vecByte d o).extractLsb' 2 6 ∧
        vecByte r (o + 2) = banner ∧
        (∀ e, c.home.bind s.effective = some e → (vecByte r (o + 3)).toNat = e.val) ∧
        (c.home.bind s.effective = none → (vecByte r (o + 3)).toNat = 15)

/-- A pass-through line that memory answers ERROR fails its read: its lines in HELD or READY are DROPPED
and the memory fault is counted. A substituted line becomes ARRIVED with fill, and the read goes on: the
fault is counted at the screen and marked in its plan, and the plan's first is reported with the source
address and the plan's epoch. -/
def Obligations.LineFails : Prop :=
  ∀ (s : State) (k : Fin 8) (l : Fin 4) (t : Tracker) (q : ReadLine) (n : Nat),
    s.path.trackers[k] = some t → t.lines[l.val]? = some q → q.st = .issued n →
    (q.res = .pass →
      RunsTo (.readLineError k l) s { s with path := { s.path with
        memFault := min (s.path.memFault + 1) 65535
        trackers := s.path.trackers.set k (some
          { t with failed := true
                   lines := (t.lines.set l.val { q with st := .failed }).map dropWaiting }) } }) ∧
    ∀ b, q.res = .subst b →
      ∃ u, exec (.readLineError k l) s = .next u ∧
        u = { s with
          path := { s.path with
            iwq := u.path.iwq
            trackers := s.path.trackers.set k (some
              { t with lines := t.lines.set l.val { q with st := .arrived (s.fillOf t.tag) } }) }
          screen := { s.screen with screens := u.screen.screens }, notice := u.notice } ∧
        (s.boundScreen t.tag = none → u.screen = s.screen ∧ NoticesHanded s.notice u.notice []) ∧
        ∀ i sc, s.boundScreen t.tag = some i → s.screen.screens[i]? = some sc →
          u.screen.screens = s.screen.screens.set i
            { sc with srcFault := min (sc.srcFault + 1) 65535
                      plan := sc.plan.map fun p => { p with faultMark := true } } ∧
          NoticesHanded s.notice u.notice
            (match sc.plan with
              | some p =>
                if p.faultMark = true then []
                else [{ kind := .sourceFault, urgent := false, subject := BitVec.ofNat 32 i, detail := b
                        epoch := p.epoch, stamp := s.time.uptime }]
              | none => [])

/-- A complete read is answered when no earlier-accepted read of its tag is unanswered: ERROR if it has
failed, else the data of its lines in order. Its tracker is free from then. While an earlier-accepted read
of its tag is unanswered it is not answered, and while a line of it is in flight it is not complete. That the
answer is a command of its own, and that it changes nothing where it has no occasion, are the model's choices,
log 28 and log 31. -/
def Obligations.ReadAnswered : Prop :=
  ∀ (s : State) (k : Fin 8) (t : Tracker), s.path.trackers[k] = some t →
    let first := ∀ (j : Fin 8) (u : Tracker), s.path.trackers[j] = some u → u.tag = t.tag → t.seq ≤ u.seq
    (first → t.failed = true → (∀ q ∈ t.lines, ∀ n, q.st ≠ .issued n) →
      exec (.readAnswer k) s = .next { s with
        port := { s.port with psp := some .error }
        path := { s.path with trackers := s.path.trackers.set k none } }) ∧
    (∀ ds : List LineData, first → t.failed = false → t.lines.map ReadLine.st = ds.map LineState.arrived →
      exec (.readAnswer k) s = .next { s with
        port := { s.port with psp := some (.data ds) }
        path := { s.path with trackers := s.path.trackers.set k none } }) ∧
    (¬ first ∨ (∃ q ∈ t.lines, ∃ n, q.st = .issued n) ∨
        (t.failed = false ∧ ∃ q ∈ t.lines, q.st.inFlight = true) →
      exec (.readAnswer k) s = .next s)

/-- An own-read line that memory answers while another line of the read is in flight becomes ARRIVED, or
FAILED with the memory fault counted and the other lines left as they are. -/
def Obligations.OwnLineAnswered : Prop :=
  ∀ (s : State) (k : Fin 2) (l : Fin 4) (lines : List OwnLine) (q : OwnLine) (n : Nat) (d : LineData),
    s.path.own[k] = some lines → lines[l.val]? = some q → q.st = .issued n →
    (∃ (j : Nat) (r : OwnLine), j ≠ l.val ∧ lines[j]? = some r ∧ r.st.inFlight = true) →
    exec (.ownReadLineAnswer k l (.data d)) s = .next { s with path := { s.path with
      own := s.path.own.set k (some (lines.set l.val { q with st := .arrived d })) } } ∧
    RunsTo (.ownReadLineAnswer k l .error) s { s with path := { s.path with
      memFault := min (s.path.memFault + 1) 65535
      own := s.path.own.set k (some (lines.set l.val { q with st := .failed })) } }

/-- A request whose timer has reached the memory timeout is taken as answered ERROR; one whose timer has not
is left alone: that the expiry is a command which a timer still short of its limit leaves without effect is
the model's choice, log 2. An answer to a request that has timed out is discarded: nothing changes. -/
def Obligations.TimeoutIsError : Prop :=
  (∀ (s : State) (k : Fin 8) (j : Fin 2) (l : Fin 4) (n : Nat),
      (s.path.pwqTimer = some n → ∃ t, exec (.memoryTimeout .pwqHead) s = .next t ∧
        if s.cfg.timing.memoryTenths ≤ n then exec (.pwqWriteAnswer .error) s = .next t else t = s) ∧
      (s.path.iwqTimer = some n → ∃ t, exec (.memoryTimeout .iwqHead) s = .next t ∧
        if s.cfg.timing.memoryTenths ≤ n then exec (.iwqWriteAnswer .error) s = .next t else t = s) ∧
      (s.path.readState k l.val = some (.issued n) → ∃ t, exec (.memoryTimeout (.readLine k l)) s = .next t ∧
        if s.cfg.timing.memoryTenths ≤ n then exec (.readLineError k l) s = .next t else t = s) ∧
      (s.path.ownState j l.val = some (.issued n) → ∃ t, exec (.memoryTimeout (.ownLine j l)) s = .next t ∧
        if s.cfg.timing.memoryTenths ≤ n then exec (.ownReadLineAnswer j l .error) s = .next t else t = s)) ∧
  ∀ (a : LateAnswer) (s : State), exec (.lateAnswer a) s = .next s

/-! ## Notices, the ring and results -/

/-- A notice joins the tail of a queue with room; a full queue gives up its oldest ROUTINE notice to an
URGENT one; any other notice is dropped. Each removal and each drop is counted. -/
def Obligations.NoticeQueued : Prop :=
  ∀ (u : NoticeUnit) (n : Notice),
    (u.queue.length < 64 → u.push n = { u with queue := u.queue ++ [n] }) ∧
    (∀ front back m, u.queue = front ++ m :: back → 64 ≤ u.queue.length → n.urgent = true →
      (∀ x ∈ front, x.urgent = true) → m.urgent = false →
      u.push n = { u with queue := front ++ back ++ [n], lost := min (u.lost + 1) 65535 }) ∧
    (64 ≤ u.queue.length → (n.urgent = false ∨ ∀ x ∈ u.queue, x.urgent = true) →
      u.push n = { u with lost := min (u.lost + 1) 65535 })

/-- While the IWQ has a free entry the Notice writer finishes a status turn that could not finish, or takes the
first turn that it has to do, starting after the one it did last; with nothing to do, or no free entry, nothing
changes. The notices' turn: the oldest notice leaves the queue, its record is placed in the IWQ for slot tail
and after it the tail word with the advanced tail, an URGENT notice's slot becomes the urgent slot, and the IRQ
line follows. The status turn: of the dirty lines, in line order, or of those still to be placed, as many as
there is room for are placed whole with their present bytes, and their marks are cleared; the rest wait. The
third turn places a tail word with the value 0. The 16 bytes of a record and the 64 of each status line are
spelled (the presence bits and the bytes of a shift that is not pending are the model's reading, log 24,
log 25). That a turn takes the lines dirty at its start, and the value of that tail word, are the model's
choices, log 17 and log 18. -/
def Obligations.WriterTurns : Prop :=
  (∀ (s : State) (base : Addr), s.started = true → s.cfg.control = some base →
    let u := s.notice
    let works (x : Turn) : Prop :=
      match x with
      | .notices => u.queue ≠ [] ∧ (u.tail + u.ring.count - u.head) % u.ring.count < u.ring.count - 1 ∧
          s.path.iwq.length + 2 ≤ 16
      | .status => ∃ i : Fin 7, u.dirty[i] = true
      | .ringTail => u.tailDue = true
    let number (x : Turn) : Nat :=
      match x with
      | .notices => 0
      | .status => 1
      | .ringTail => 2
    let after (x : Turn) : Nat := (number x + 2 - number u.lastTurn) % 3
    let next (x : Turn) : Prop := u.turnLines = [] ∧ works x ∧ ∀ y, works y → after x ≤ after y
    (16 ≤ s.path.iwq.length ∨ (u.turnLines = [] ∧ ∀ x, ¬ works x) → exec .noticeWriterTurn s = .next s) ∧
    (s.path.iwq.length < 16 →
      (∀ (n : Notice) (rest : List Notice), next .notices → u.queue = n :: rest →
        let tail := if u.tail + 1 < u.ring.count then u.tail + 1 else 0
        let slot := u.ring.base + BitVec.ofNat 32 (u.tail * 16)
        ∃ t, exec .noticeWriterTurn s = .next t ∧
          t.notice = { u with
            queue := rest, tail := tail, lastTurn := .notices
            urgent := if n.urgent = true then some u.tail else u.urgent
            irq := t.notice.irqCondition, dirty := t.notice.dirty } ∧
          (∃ l, List.Forall₂ SameWrite s.path.iwq l ∧ t.path.iwq = l ++
            [{ kind := .notice, addr := alignLine slot, data := lineAt (slot.toNat % 64) (recordBytes n)
               en := enablesAt (slot.toNat % 64) 16 },
             { kind := .tail, addr := base + 128, data := lineOf (bytes16 (BitVec.ofNat 16 tail))
               en := enablesAt 0 4 }]) ∧
          t = { s with notice := t.notice, path := { s.path with iwq := t.path.iwq } }) ∧
      (∀ lines : List (Fin 7), lines ≠ [] →
        u.turnLines = lines ∨ (next .status ∧ lines = (List.finRange 7).filter fun i => u.dirty[i]) →
        let placed := lines.take (16 - s.path.iwq.length)
        exec .noticeWriterTurn s = .next { s with
          path := { s.path with iwq := s.path.iwq ++ placed.map fun i =>
            { kind := .status i, addr := base + BitVec.ofNat 32 (64 * (4 + i.val)), data := s.statusLine i
              en := Vector.replicate 64 true } }
          notice := { u with
            dirty := Vector.ofFn fun i => u.dirty[i] && decide (i ∉ placed)
            turnLines := lines.drop (16 - s.path.iwq.length), lastTurn := .status } }) ∧
      (next .ringTail → exec .noticeWriterTurn s = .next { s with
        path := { s.path with iwq := s.path.iwq ++
          [{ kind := .tail, addr := base + 128, data := lineOf [0, 0], en := enablesAt 0 4 }] }
        notice := { u with tailDue := false, lastTurn := .ringTail } }))) ∧
  (∀ n : Notice, (recordBytes n).length = 16 ∧ RecordBytes n (listByte (recordBytes n))) ∧
  ∀ (s : State) (i : Fin 7), StatusLineBytes s i (vecByte (s.statusLine i))

/-- A write of the head index, with one of its bytes enabled or both: the copy takes the enabled bytes, and the
head index that it then holds is tested. A valid head becomes the accepted head, the urgent slot is kept only
while unread, and the IRQ line follows; any other head is counted as bad. With neither byte enabled nothing is
tested. -/
def Obligations.HeadIndexTested : Prop :=
  ∀ (tag : Tag) (head : BitVec 16) (low high : Bool) (s : State) (base : Addr), s.started = true →
    s.cfg.control = some base → base.toNat + 4096 ≤ 4294967296 → s.path.pwq.length < 32 →
    let u := s.notice
    let byte8 : Byte := if low = true then head.extractLsb' 0 8 else u.desc[8]
    let byte9 : Byte := if high = true then head.extractLsb' 8 8 else u.desc[9]
    let h := byte8.toNat + 256 * byte9.toNat
    let back := (h + u.ring.count - u.head) % u.ring.count
    let valid := h < u.ring.count ∧ back ≤ (u.tail + u.ring.count - u.head) % u.ring.count
    let tested := low = true ∨ high = true
    let v := if ¬ (low = true ∨ high = true) then u
      else if h < u.ring.count ∧ back ≤ (u.tail + u.ring.count - u.head) % u.ring.count then { u with head := h }
      else { u with badHead := min (u.badHead + 1) 65535 }
    ∃ t, exec (.headIndexWrite tag head low high) s = .next t ∧
      t.notice.head = v.head ∧ t.notice.badHead = v.badHead ∧
      (tested → valid →
        t.notice.irq = t.notice.irqCondition ∧
        t.notice.urgent = u.urgent.filter fun j => decide (v.ahead j < v.unread)) ∧
      (¬ (tested ∧ valid) → t.notice.irq = u.irq ∧ t.notice.urgent = u.urgent) ∧
      (∀ i : Fin 10, i.val < 8 → t.notice.desc[i] = u.desc[i]) ∧
      t.notice.desc[8] = byte8 ∧ t.notice.desc[9] = byte9 ∧
      t.notice.queue = u.queue ∧ t.notice.tail = u.tail ∧ t.notice.ring = u.ring ∧ t.notice.lost = u.lost ∧
      (¬ tested → t.notice = u) ∧
      t.path.pwq = s.path.pwq ++ [{ addr := base + 64, data := (headLine head low high).data
                                    en := (headLine head low high).en, seq := s.path.seq }] ∧
      t = { s with
        port := { s.port with psp := some .accept }, notice := t.notice
        path := { s.path with pwq := t.path.pwq, seq := s.path.seq + 1, iwq := t.path.iwq } }

/-! ## Written tables -/

/-- A delivered programme line: each entry of the line that received an enabled byte takes the enabled bytes
and the status that R117 gives its bytes; every other entry stands; and the selections are computed, a
changed featured target going to the Route engine. Each evaluation to REJECTED is counted, and reported
unless it repeats the field. Two notices of one line stand in rising index, the model's choice, log 46. A
rescan's units that received an enabled byte are touched. -/
def Obligations.ProgrammeLineTaken : Prop :=
  ∀ (tag : Tag) (k : Fin 128) (w : WriteLine) (s : State) (v : Window), s.started = true →
    s.cfg.programme = some v → k.val < v.lines → v.base.toNat + 64 * v.lines ≤ 4294967296 →
    s.cfg.classOf (v.base + BitVec.ofNat 32 (64 * k.val)) = .programme → s.path.pwq.length < 32 →
    let evaluated : List (Nat × EntryStatus × EntryStatus) := (List.range 2).filterMap fun j =>
      match s.prog.shadow[2 * k.val + j]? with
      | some e =>
        if anyEnabled w.en (32 * j) 32 = true then
          some (2 * k.val + j, e.status, statusOf (mergeBytes e.bytes (32 * j) w))
        else none
      | none => none
    let rejected := evaluated.countP fun x => x.2.2.isRejected
    let reports : List Notice := evaluated.filterMap fun x =>
      match x.2.2 with
      | .rejected n =>
        if x.2.1 = .rejected n then none
        else some { kind := .entryRejected, urgent := false, subject := BitVec.ofNat 32 x.1
                    detail := BitVec.ofNat 32 n, epoch := s.muster.epoch, stamp := s.time.uptime }
      | .empty | .listed => none
    ∃ t, exec (.programmeLineWrite tag k w) s = .next t ∧
      (∀ (j : Nat) (e : ShadowEntry), j < 2 → s.prog.shadow[2 * k.val + j]? = some e →
        t.prog.shadow[2 * k.val + j]? = some
          (if anyEnabled w.en (32 * j) 32 = true then
            { bytes := mergeBytes e.bytes (32 * j) w, status := statusOf (mergeBytes e.bytes (32 * j) w) }
          else e)) ∧
      (∀ i, i / 2 ≠ k.val → t.prog.shadow[i]? = s.prog.shadow[i]?) ∧
      t.prog.rejected = (if rejected = 0 then s.prog.rejected else min (s.prog.rejected + rejected) 65535) ∧
      NoticesHanded s.notice t.notice reports ∧
      (anyEnabled w.en 0 64 = true → t.prog.sel = s.screen.screens.map t.prog.select) ∧
      FeaturedHanded s t ∧ RescanTouched s.cmd.rescan t.cmd.rescan .programme k.val w.en ∧
      t.prog.clockSet = s.prog.clockSet ∧ t.prog.day = s.prog.day ∧ t.prog.sec = s.prog.sec ∧
      t.prog.phase = s.prog.phase ∧ t.prog.shift = s.prog.shift ∧
      t.path = { s.path with
        pwq := s.path.pwq ++ [{ addr := v.base + BitVec.ofNat 32 (64 * k.val), data := w.data, en := w.en
                                seq := s.path.seq }]
        seq := s.path.seq + 1, iwq := t.path.iwq } ∧
      t = { s with
        port := { s.port with psp := some .accept }, path := t.path, prog := t.prog
        route := { s.route with work := t.route.work }, cmd := { s.cmd with rescan := t.cmd.rescan }
        notice := t.notice }

/-- The first field of an entry that is out of its range decides REJECTED; an entry with its valid flag clear
is EMPTY; any other is LISTED. The checks go over the whole byte or word of each field. -/
def Obligations.EntryStatusByFields : Prop :=
  ∀ b : Vector Byte 32,
    let start := b[4].toNat + 256 * b[5].toNat
    let duration := b[6].toNat + 256 * b[7].toNat
    statusOf b =
      if b[0].getLsbD 0 = false then .empty
      else if b[1].toNat > 7 then .rejected 1
      else if start > 1439 then .rejected 2
      else if duration < 1 ∨ duration > 720 then .rejected 3
      else if b[3].toNat > 19 then .rejected 4
      else if b[8].toNat > 19 then .rejected 5
      else if b[9].toNat > 60 then .rejected 6
      else .listed

/-- Where the clock is SET, NOW is the first entry in list order that matches the screen and is running, and
NEXT the first that matches and is to come; each is none where there is none. The countdown is the start of
NEXT less T, at least 1, and none without NEXT. While the clock is UNSET there is no NOW and no NEXT. An
entry matches a screen where its deck and its category are in the screen's masks. The featured target of a
WAYFINDING screen is the venue of the first featured entry that matches and is running or within its lead,
and its default target where there is none or the clock is UNSET; the other kinds have none, and a GENERAL
screen has no record. A computation takes every screen, and hands changed featured targets to the Route
engine. -/
def Obligations.NowNextAndCountdown : Prop :=
  (∀ (p : ProgUnit) (sc : Screen),
    let T := p.day * 1440 + p.sec / 60
    let fits (e : ListEntry) : Prop :=
      sc.conf.deckMask.getLsbD e.deck = true ∧ sc.conf.categoryMask.getLsbD e.category = true
    let running (e : ListEntry) : Prop := fits e ∧ e.start ≤ T ∧ T < e.finish
    let toCome (e : ListEntry) : Prop := fits e ∧ T < e.start
    let features (e : ListEntry) : Prop :=
      e.featured = true ∧ (running e ∨ (toCome e ∧ e.start ≤ T + e.lead))
    (p.select sc = none ↔ sc.conf.kind = .general) ∧
    ∀ r, p.select sc = some r →
      (p.clockSet = false → r.now = none ∧ r.next = none ∧ r.countdown = none) ∧
      (p.clockSet = true →
        (∀ front e back, p.order = front ++ e :: back → running e → (∀ x ∈ front, ¬ running x) →
          r.now = some e.index) ∧
        ((∀ x ∈ p.order, ¬ running x) → r.now = none) ∧
        (∀ front e back, p.order = front ++ e :: back → toCome e → (∀ x ∈ front, ¬ toCome x) →
          r.next = some e.index ∧ ∃ n, r.countdown = some n ∧ 1 ≤ n ∧ n + T = e.start) ∧
        ((∀ x ∈ p.order, ¬ toCome x) → r.next = none ∧ r.countdown = none)) ∧
      r.featured = p.featuredField sc ∧ (sc.conf.kind ≠ .wayfinding → r.featured = none) ∧
      (sc.conf.kind = .wayfinding →
        (p.clockSet = false → r.featured = some sc.defaultTarget) ∧
        (p.clockSet = true →
          (∀ front e back, p.order = front ++ e :: back → features e → (∀ x ∈ front, ¬ features x) →
            r.featured = some (12 + e.venue)) ∧
          ((∀ x ∈ p.order, ¬ features x) → r.featured = some sc.defaultTarget)))) ∧
  ∀ (s : State), s.computeSelections.prog = { s.prog with sel := s.screen.screens.map s.prog.select } ∧
    FeaturedHanded s s.computeSelections ∧
    s.computeSelections = { s with
      prog := s.computeSelections.prog, route := { s.route with work := s.computeSelections.route.work } }

/-- A delivered segment line sets the software state of each present segment of the line whose byte is
enabled and holds a code, all at one instant, and counts each enabled byte of a present segment that holds
none. Where a state has changed the ARROW screens are appended to the work list, and where none has the
list stands. A rescan's units that received an enabled byte are touched. -/
def Obligations.SegmentLineTaken : Prop :=
  ∀ (tag : Tag) (k : Fin 4) (w : WriteLine) (s : State) (v : Window), s.started = true →
    s.cfg.segment = some v → k.val < v.lines → v.base.toNat + 64 * v.lines ≤ 4294967296 →
    s.cfg.classOf (v.base + BitVec.ofNat 32 (64 * k.val)) = .segment → s.path.pwq.length < 32 →
    ∃ t, exec (.segmentStatusWrite tag k w) s = .next t ∧
      (∀ (i : Nat) (g : Segment), s.route.segments[i]? = some g →
        t.route.segments[i]? = some
          (if i / 64 = k.val ∧ anyEnabled w.en (i % 64) 1 = true then g.withCode (vecByte w.data (i % 64))
          else g)) ∧
      t.route.segments.length = s.route.segments.length ∧
      t.route.work = (if t.route.segments = s.route.segments then s.route.work
        else s.arrowScreens.foldl appendWork s.route.work) ∧
      (∀ bad : Nat, bad = ((List.finRange 64).countP fun j =>
          decide (64 * k.val + j.val < s.route.segments.length) && w.en[j] && decide (2 < w.data[j].toNat)) →
        t.route.badSeg = if bad = 0 then s.route.badSeg else min (s.route.badSeg + bad) 65535) ∧
      t.route = { s.route with
        segments := t.route.segments, badSeg := t.route.badSeg, work := t.route.work } ∧
      RescanTouched s.cmd.rescan t.cmd.rescan .segments k.val w.en ∧
      t.path = { s.path with
        pwq := s.path.pwq ++ [{ addr := v.base + BitVec.ofNat 32 (64 * k.val), data := w.data, en := w.en
                                seq := s.path.seq }]
        seq := s.path.seq + 1, iwq := t.path.iwq } ∧
      t = { s with
        port := { s.port with psp := some .accept }, path := t.path, route := t.route
        cmd := { s.cmd with rescan := t.cmd.rescan }
        notice := { s.notice with dirty := t.notice.dirty } }

/-- A delivered cabin line: a written record's home station is taken if its byte is enabled and names a
station, and counted as bad if its byte names none; its last write is the write's sequence number; and a
cabin that was not pending becomes ROUTINE, eligible at its last refresh plus the interval (where that sum is
an uptime second: beyond it the value is free, log 11). In DRILL, MUSTER and STANDDOWN a home station that
changes the station to be shown makes the cabin URGENT instead, eligible at once. A record with no enabled
byte, and every other cabin, is as before. Then each eligible cabin whose notified flag is clear is notified,
in set order, and its flag set. That this is done once for the whole line, and not between its two records, is
the model's choice, log 35. A rescan's units that received an enabled byte are touched. -/
def Obligations.CabinLineTaken : Prop :=
  ∀ (tag : Tag) (k : Fin 256) (w : WriteLine) (s : State) (v : Window),
    s.started = true →
    s.cfg.cabin = some v → k.val < v.lines → v.base.toNat + 64 * v.lines ≤ 4294967296 →
    s.cfg.classOf (v.base + BitVec.ofNat 32 (64 * k.val)) = .cabin → s.path.pwq.length < 32 →
    let due (d : Cabin) : Prop := d.pend ≠ .none ∧ d.eligible.toNat ≤ s.time.uptime.toNat
    let shown (h : Option StationIx) : Nat := ((h.bind s.effective).map Fin.val).getD 15
    let outside := s.muster.state = .drill ∨ s.muster.state = .muster ∨ s.muster.state = .standdown
    let value (j : Nat) : Byte := vecByte w.data (32 * j + 1)
    ∃ t, exec (.cabinRecordWrite tag k w) s = .next t ∧
      (∀ (j : Nat) (c : Cabin), j < 2 → anyEnabled w.en (32 * j) 32 = true →
        s.cabin.cabins[2 * k.val + j]? = some c →
        ∃ d, t.cabin.cabins[2 * k.val + j]? = some d ∧
          d.lastRefresh = c.lastRefresh ∧ d.lastWrite = some s.path.seq ∧
          d.home = (if h : anyEnabled w.en (32 * j + 1) 1 = true ∧ (value j).toNat < 12 then
            some ⟨(value j).toNat, h.2⟩ else c.home) ∧
          (outside → shown c.home ≠ shown d.home →
            d.pend = .urgent ∧ d.eligible = (if c.pend = .urgent then c.eligible else s.time.uptime)) ∧
          (¬ outside ∨ shown c.home = shown d.home →
            (c.pend ≠ .none → d.pend = c.pend ∧ d.eligible = c.eligible) ∧
            (c.pend = .none → d.pend = .routine ∧
              (c.lastRefresh.toNat + s.cfg.timing.refreshSeconds < 4294967296 →
                d.eligible.toNat = c.lastRefresh.toNat + s.cfg.timing.refreshSeconds))) ∧
          (d.notified = true ↔ due d ∨ (c.notified = true ∧ ¬ (c.pend = .routine ∧ d.pend = .urgent)))) ∧
      (∀ (i : Nat) (c : Cabin), s.cabin.cabins[i]? = some c →
        i / 2 ≠ k.val ∨ anyEnabled w.en (32 * (i % 2)) 32 = false →
        ∃ d, t.cabin.cabins[i]? = some d ∧ d = { c with notified := d.notified } ∧
          (d.notified = true ↔ due c ∨ c.notified = true)) ∧
      (∀ bad : Nat, bad = ((List.range 2).countP fun j => decide (2 * k.val + j < s.cabin.cabins.length) &&
          anyEnabled w.en (32 * j + 1) 1 && decide (11 < (value j).toNat)) →
        t.cabin.badHome = if bad = 0 then s.cabin.badHome else min (s.cabin.badHome + bad) 65535) ∧
      NoticesHanded s.notice t.notice (cabinNotices s t) ∧
      RescanTouched s.cmd.rescan t.cmd.rescan .cabins k.val w.en ∧
      t.path = { s.path with
        pwq := s.path.pwq ++ [{ addr := v.base + BitVec.ofNat 32 (64 * k.val), data := w.data, en := w.en
                                seq := s.path.seq }]
        seq := s.path.seq + 1, iwq := t.path.iwq } ∧
      t = { s with
        port := { s.port with psp := some .accept }, path := t.path, cabin := t.cabin
        cmd := { s.cmd with rescan := t.cmd.rescan }, notice := t.notice }

/-! ## The command slot and its commands -/

/-- A command word with a code that is not 0, delivered while the slot is EXECUTING, is ignored: the overrun
counter increments and the overrun mark is set, and the copy takes the delivered bytes. A held result is
placed once the IWQ has a free entry: the slot becomes IDLE and the last result shows the sequence, the
outcome and the flags, OVERRUN among them if the overrun mark is set. A command that starts in an IDLE slot
while the IWQ is full does all that it does with room, but for its result: where it ends, the result is held,
the slot stays EXECUTING and the last result stands. -/
def Obligations.ExecutingSlot : Prop :=
  (∀ (c : Instr) (code seq : Byte) (args : List Word) (s t0 : State) (base : Addr),
      slotCommand c = some (code, seq, args) → code ≠ 0 → s.started = true → s.cfg.control = some base →
      s.cmd.executing = false → s.path.pwq.length < 32 → 16 ≤ s.path.iwq.length →
      exec c { s with path := { s.path with iwq := [] } } = .next t0 →
      ∃ t, exec c s = .next t ∧ List.Forall₂ SameWrite s.path.iwq t.path.iwq ∧
        (t0.cmd.executing = false → ∃ r : CmdResult,
          t0.path.iwq = [{ kind := .result, addr := base, en := enablesAt 32 8
                           data := lineAt 32 ([seq, outcomeCode r.outcome,
                             (if r.shiftCancelled = true then 2#8 else 0) ||| (if r.fault = true then 4#8 else 0),
                             0] ++ bytes32 r.detail) }] ∧
          t = { t0 with
            path := { t0.path with iwq := t.path.iwq }
            cmd := { t0.cmd with executing := true, held := some r, last := s.cmd.last }
            notice := { t0.notice with dirty := t.notice.dirty } }) ∧
        (t0.cmd.executing = true →
          t = { t0 with
            path := { t0.path with iwq := t.path.iwq }, notice := { t0.notice with dirty := t.notice.dirty } })) ∧
  (∀ (c : Instr) (code seq : Byte) (args : List Word) (s : State) (base : Addr),
      slotCommand c = some (code, seq, args) → code ≠ 0 → s.started = true → s.cfg.control = some base →
      s.cmd.executing = true → s.path.pwq.length < 32 →
      RunsTo c s { s with
        port := { s.port with psp := some .accept }
        path := { s.path with
          pwq := s.path.pwq ++ [{ addr := base, data := (slotLine code seq args).data
                                  en := (slotLine code seq args).en, seq := s.path.seq }]
          seq := s.path.seq + 1 }
        cmd := { s.cmd with
          copy := sliceBytes (slotLine code seq args).data 0
          overruns := min (s.cmd.overruns + 1) 65535, overrunMark := true } }) ∧
  ∀ (s : State) (base : Addr) (r : CmdResult), s.cfg.control = some base → s.cmd.held = some r →
    s.path.iwq.length < 16 →
    let flags := (if s.cmd.overrunMark = true then 1#8 else 0) ||| (if r.shiftCancelled = true then 2#8 else 0)
      ||| (if r.fault = true then 4#8 else 0)
    RunsTo .resultWordPlacement s { s with
      path := { s.path with iwq := s.path.iwq ++
        [{ kind := .result, addr := base, en := enablesAt 32 8
           data := lineAt 32 ([s.cmd.seqInHand, outcomeCode r.outcome, flags, 0] ++ bytes32 r.detail) }] }
      cmd := { s.cmd with
        executing := false, held := none
        last := { seq := s.cmd.seqInHand, outcome := outcomeCode r.outcome, flags := flags } } }

/-- MUSTER ORDER in MUSTER is a repeat: the repeat count increments, and nothing else of the muster state
changes. The command ends DONE. A muster command in a state that it does not start from ends
REFUSED_STATE, and ALL CLEAR in MUSTER with the MUSTER level asserted ends REFUSED_LINE. Each changes
nothing but the slot, and its detail gives the state and the epoch. -/
def Obligations.MusterCommandsWithoutChange : Prop :=
  (∀ (tag : Tag) (seq : Byte) (s : State) (base : Addr), s.slotOpen base → s.muster.state = .muster →
      RunsTo (.musterOrder tag seq) s
        (State.placeResult
          { s.slotWritten base 3 seq [] with
            muster := { s.muster with repeats := min (s.muster.repeats + 1) 65535 } }
          { outcome := .done, detail := musterResult s.muster })) ∧
  ∀ (tag : Tag) (seq : Byte) (s : State) (base : Addr), s.slotOpen base →
    let refused (code : Byte) (o : CmdOutcome) : State :=
      (s.slotWritten base code seq []).placeResult { outcome := o, detail := musterResult s.muster }
    (s.muster.state ≠ .normal → RunsTo (.drillStart tag seq) s (refused 1 .refusedState)) ∧
    (s.muster.state ≠ .drill → RunsTo (.drillEnd tag seq) s (refused 2 .refusedState)) ∧
    (s.muster.state ≠ .muster → RunsTo (.allClear tag seq) s (refused 4 .refusedState)) ∧
    (s.muster.state = .muster → s.lines.muster.deb = true →
      RunsTo (.allClear tag seq) s (refused 4 .refusedLine)) ∧
    (s.muster.state ≠ .standdown → RunsTo (.standdownEnd tag seq) s (refused 5 .refusedState))

/-- MUSTER ORDER in NORMAL, DRILL or STANDDOWN enters MUSTER with cause COMMAND: the epoch increments and
the standdown timer stops. DRILL START from NORMAL, DRILL END from DRILL, ALL CLEAR from MUSTER with the
MUSTER level deasserted and STANDDOWN END from STANDDOWN change the state as their rules say. Each has every
effect of a change of state, with its notices: MUSTER_STATE, then MAINT_WINDOW, COVERAGE_COMPLETE and the
CABIN_REFRESH notices that are due, in an order that is free (log 10). Each ends DONE with the state and the
epoch after it (with a full IWQ see ExecutingSlot). That every screen is uncovered until its next frame start,
whatever its plan, is the model's reading, log 43, and that the result word is placed before the notices and
status lines of its command is the model's choice, log 50. -/
def Obligations.MusterCommandsChangeState : Prop :=
  ∀ (tag : Tag) (seq : Byte) (s : State) (base : Addr), s.slotOpen base →
    ((s.muster.state = .normal ∨ s.muster.state = .drill ∨ s.muster.state = .standdown) →
      let m : MusterUnit := { s.muster with
        state := .muster, epoch := s.muster.epoch + 1, cause := .command, standdown := none }
      ∃ t, exec (.musterOrder tag seq) s = .next t ∧ MusterChanged s t m .command ∧
        CommandEnds s t base 3 seq [] .done (musterResult m)) ∧
    (s.muster.state = .normal →
      let m : MusterUnit := { s.muster with state := .drill, epoch := s.muster.epoch + 1 }
      ∃ t, exec (.drillStart tag seq) s = .next t ∧ MusterChanged s t m .command ∧
        CommandEnds s t base 1 seq [] .done (musterResult m)) ∧
    (s.muster.state = .drill →
      let m : MusterUnit := { s.muster with state := .normal }
      ∃ t, exec (.drillEnd tag seq) s = .next t ∧ MusterChanged s t m .command ∧
        CommandEnds s t base 2 seq [] .done (musterResult m)) ∧
    (s.muster.state = .muster → s.lines.muster.deb = false →
      let m : MusterUnit := { s.muster with state := .standdown, standdown := some 0 }
      ∃ t, exec (.allClear tag seq) s = .next t ∧ MusterChanged s t m .command ∧
        CommandEnds s t base 4 seq [] .done (musterResult m)) ∧
    (s.muster.state = .standdown →
      let m : MusterUnit := { s.muster with state := .normal, standdown := none }
      ∃ t, exec (.standdownEnd tag seq) s = .next t ∧ MusterChanged s t m .command ∧
        CommandEnds s t base 5 seq [] .done (musterResult m))

/-- STATION CLOSE, STATION OPEN and SET ALTERNATE set the state or the alternate of their station, recompute
every effective station, append the ARROW screens to the work list, and end DONE with the number of
stations whose effective station changed. Each of those is reported, in index order, and the cabins whose
home it is take an URGENT cause; then the cabins are notified. Every other cabin keeps its entry but for its
notified flag. -/
def Obligations.StationCommandsDone : Prop :=
  ∀ (tag : Tag) (seq : Byte) (n : StationIx) (s : State) (base : Addr) (table : StationTable),
    s.slotOpen base → s.station.table = some table →
    let ends (c : Instr) (code : Byte) (args : List Word) (entries : Vector Station 12) : Prop :=
      let after := allEffective entries
      let changed := (List.finRange 12).filter fun i => decide (table.effective[i] ≠ after[i])
      let reports : List Notice := changed.map fun i =>
        { kind := .stationChanged, urgent := true, subject := BitVec.ofNat 32 i.val
          detail := match after[i] with
            | some e => BitVec.ofNat 32 e.val
            | none => 255
          epoch := s.muster.epoch, stamp := s.time.uptime }
      ∃ t, exec c s = .next t ∧
        t.station = { s.station with table := some { entries, effective := after } } ∧
        CommandEnds s t base code seq args .done (BitVec.ofNat 32 changed.length) ∧
        t.cmd.maint = s.cmd.maint ∧
        t.route = { s.route with work := s.arrowScreens.foldl appendWork s.route.work } ∧
        (∀ (i : Nat) (c : Cabin), s.cabin.cabins[i]? = some c →
          ∃ d, t.cabin.cabins[i]? = some d ∧
            ((∃ h ∈ changed, c.home = some h) → UrgentNow s.time.uptime c d) ∧
            ((∀ h ∈ changed, c.home ≠ some h) → d = { c with notified := d.notified })) ∧
        NoticesHanded s.notice t.notice (reports ++ if changed = [] then [] else cabinNotices s t) ∧
        t.loader = s.loader ∧ t.time = s.time ∧ t.cfg = s.cfg ∧ t.lines = s.lines ∧ t.muster = s.muster ∧
        t.screen = s.screen ∧ t.prog = s.prog ∧ t.cabin.badHome = s.cabin.badHome
    let old := table.entries[n]
    ends (.stationClose tag seq (BitVec.ofNat 32 n.val)) 6 [BitVec.ofNat 32 n.val]
      (table.entries.set n { old with closed := true }) ∧
    ends (.stationOpen tag seq (BitVec.ofNat 32 n.val)) 7 [BitVec.ofNat 32 n.val]
      (table.entries.set n { old with closed := false }) ∧
    (∀ a : StationIx, ends (.setAlternate tag seq (BitVec.ofNat 32 n.val) (BitVec.ofNat 32 a.val)) 8
      [BitVec.ofNat 32 n.val, BitVec.ofNat 32 a.val] (table.entries.set n { old with alternate := some a })) ∧
    ends (.setAlternate tag seq (BitVec.ofNat 32 n.val) 255) 8 [BitVec.ofNat 32 n.val, 255]
      (table.entries.set n { old with alternate := none })

/-- The effective station of a station is itself while it is OPEN. While it is CLOSED it is the first OPEN
station that one, two or three hops along the alternates reach, and NONE where they reach none. -/
def Obligations.EffectiveStationByHops : Prop :=
  ∀ (entries : Vector Station 12) (s : StationIx),
    let isOpen (x : StationIx) : Prop := entries[x].closed = false
    (isOpen s → effectiveStation entries s = some s) ∧
    (∀ e, effectiveStation entries s = some e → isOpen e) ∧
    (¬ isOpen s →
      (entries[s].alternate = none → effectiveStation entries s = none) ∧
      ∀ a, entries[s].alternate = some a →
        (isOpen a → effectiveStation entries s = some a) ∧
        (¬ isOpen a →
          (entries[a].alternate = none → effectiveStation entries s = none) ∧
          ∀ b, entries[a].alternate = some b →
            (isOpen b → effectiveStation entries s = some b) ∧
            (¬ isOpen b →
              (entries[b].alternate = none → effectiveStation entries s = none) ∧
              ∀ c, entries[b].alternate = some c →
                effectiveStation entries s = if entries[c].closed = false then some c else none)))

/-- PUBLISH PAGE in READY and NORMAL with valid arguments flips the live slot of every selected present
entry and nothing else, and ends DONE with the number of entries it flipped. -/
def Obligations.PublishPageFlips : Prop :=
  ∀ (tag : Tag) (seq : Byte) (a b c : Word) (s : State) (base : Addr), s.slotOpen base → s.isReady = true →
    s.muster.state = .normal → (a.toNat < 12 ∨ a = 255) → (b.toNat < 4 ∨ b = 255) → (c.toNat < 3 ∨ c = 255) →
    let picked (n : Nat) : Prop := (a = 255 ∨ a.toNat = n / 12) ∧ (b = 255 ∨ b.toNat = n % 12 / 3) ∧
      (c = 255 ∨ c.toNat = n % 3)
    ∃ (t : State) (flips : List Nat), exec (.publishPage tag seq a b c) s = .next t ∧
      (∀ n, n ∈ flips ↔ picked n ∧ ∃ p, s.station.pages[n]? = some (some p)) ∧ flips.Nodup ∧
      (∀ n p, s.station.pages[n]? = some (some p) → n ∈ flips →
        t.station.pages[n]? = some (some { p with live := !p.live })) ∧
      (∀ n, n ∉ flips → t.station.pages[n]? = s.station.pages[n]?) ∧
      t.station.table = s.station.table ∧
      CommandEnds s t base 9 seq [a, b, c] .done (BitVec.ofNat 32 flips.length) ∧
      t = { s with
        port := t.port, path := t.path, station := t.station, cmd := { t.cmd with maint := s.cmd.maint }
        notice := { s.notice with dirty := t.notice.dirty } }

/-- OPEN WINDOW opens the window with its timer at the full maintenance time where its four tests pass; CLOSE
WINDOW closes an OPEN window, appends the ARROW screens and queues MAINT_WINDOW with cause COMMAND. The
refusals of OPEN WINDOW and CLOSE WINDOW in READY, in the order of their tests. Each changes nothing but
the slot. -/
def Obligations.WindowCommands : Prop :=
  (∀ (tag : Tag) (seq : Byte) (s : State) (base : Addr), s.slotOpen base → s.isReady = true →
      (s.lines.maint.deb = true → s.muster.state = .normal → s.cmd.maint = none →
        let w := s.slotWritten base 10 seq []
        RunsTo (.openWindow tag seq) s
          (State.placeResult { w with cmd := { w.cmd with maint := some 0 } }
            { outcome := .done, detail := BitVec.ofNat 32 s.cfg.timing.maintMinutes })) ∧
      (s.cmd.maint.isSome = true →
        let w := s.slotWritten base 11 seq []
        RunsTo (.closeWindow tag seq) s
          (State.placeResult
            { w with
              cmd := { w.cmd with maint := none }
              route := { s.route with work := s.arrowScreens.foldl appendWork s.route.work }
              notice := s.notice.push { kind := .maintWindow, urgent := false, subject := 0, detail := 0
                                        epoch := s.muster.epoch, stamp := s.time.uptime } }
            { outcome := .done }))) ∧
  ∀ (tag : Tag) (seq : Byte) (s : State) (base : Addr), s.slotOpen base → s.isReady = true →
    let refused (code : Byte) (o : CmdOutcome) : State :=
      (s.slotWritten base code seq []).placeResult { outcome := o }
    (s.lines.maint.deb = false → RunsTo (.openWindow tag seq) s (refused 10 .refusedLine)) ∧
    (s.lines.maint.deb = true → s.muster.state ≠ .normal →
      RunsTo (.openWindow tag seq) s (refused 10 .refusedState)) ∧
    (s.lines.maint.deb = true → s.muster.state = .normal → s.cmd.maint.isSome = true →
      RunsTo (.openWindow tag seq) s (refused 10 .refusedMaint)) ∧
    (s.cmd.maint = none → RunsTo (.closeWindow tag seq) s (refused 11 .refusedMaint))

/-- The clock commands: SET CLOCK sets the clock, cancels a pending shift and computes the selections, handing
changed featured targets to the Route engine; SCHEDULE SHIFT with a valid shift and the clock SET makes it
the pending shift; CANCEL SHIFT clears it. -/
def Obligations.ClockCommandsDone : Prop :=
  ∀ (tag : Tag) (seq : Byte) (a b c : Word) (s : State) (base : Addr), s.slotOpen base →
    (a.toNat ≤ 255 → b.toNat ≤ 86399 →
      ∃ t, exec (.setClock tag seq a b) s = .next t ∧
        t.prog = { s.prog with
          clockSet := true, day := a.toNat, sec := b.toNat, phase := 0, shift := none
          sel := s.screen.screens.map t.prog.select } ∧
        FeaturedHanded s t ∧
        t.cmd = { s.cmd with
          copy := sliceBytes (slotLine 12 seq [a, b]).data 0
          executing := false, overrunMark := false, seqInHand := seq, held := none
          last := { seq, outcome := 1, flags := if s.prog.shift.isSome = true then 2 else 0 } } ∧
        (∃ l, List.Forall₂ SameWrite s.path.iwq l ∧ t.path.iwq = l ++
          [{ kind := .result, addr := base, en := enablesAt 32 8
             data := lineAt 32 ([seq, 1, (if s.prog.shift.isSome = true then 2 else 0), 0] ++ bytes32 0) }]) ∧
        t.path = { s.path with
          pwq := s.path.pwq ++ [{ addr := base, data := (slotLine 12 seq [a, b]).data
                                  en := (slotLine 12 seq [a, b]).en, seq := s.path.seq }]
          seq := s.path.seq + 1, iwq := t.path.iwq } ∧
        t = { s with
          port := { s.port with psp := some .accept }, path := t.path, prog := t.prog, cmd := t.cmd
          route := { s.route with work := t.route.work }
          notice := { s.notice with dirty := t.notice.dirty } }) ∧
    (a.toNat ≤ 255 → b.toNat ≤ 1439 → c.toInt ≠ 0 → c.toInt % 15 = 0 → -120 ≤ c.toInt → c.toInt ≤ 120 →
      0 ≤ (b.toNat : Int) + c.toInt → (b.toNat : Int) + c.toInt ≤ 1439 → s.prog.clockSet = true →
      RunsTo (.scheduleShift tag seq a b c) s
        (State.placeResult
          { s.slotWritten base 13 seq [a, b, c] with
            prog := { s.prog with shift := some { day := a.toNat, minute := b.toNat, minutes := c.toInt } } }
          { outcome := .done, detail := if s.prog.shift.isSome = true then 1 else 0 })) ∧
    RunsTo (.cancelShift tag seq) s
      (State.placeResult
        { s.slotWritten base 14 seq [] with prog := { s.prog with shift := none } }
        { outcome := .done, detail := if s.prog.shift.isSome = true then 1 else 0 })

/-- SET DEFAULT TARGET in READY, for a present screen and a target of 0 to 31, replaces the screen's default
target and ends DONE with the target. For a WAYFINDING screen its featured target is computed again, and
the Route engine takes a screen with an ARROW pane whose featured target has changed; no other selection
changes. -/
def Obligations.DefaultTargetSet : Prop :=
  ∀ (tag : Tag) (seq : Byte) (a b : Word) (s : State) (base : Addr) (sc : Screen), s.slotOpen base →
    s.isReady = true → s.screen.screens[a.toNat]? = some sc → b.toNat ≤ 31 →
    ∃ t, exec (.setDefaultTarget tag seq a b) s = .next t ∧
      t.screen = { s.screen with
        screens := s.screen.screens.set a.toNat { sc with defaultTarget := b.toNat } } ∧
      CommandEnds s t base 15 seq [a, b] .done b ∧ t.cmd.maint = s.cmd.maint ∧
      (∀ r, s.prog.sel[a.toNat]? = some (some r) → t.prog.sel[a.toNat]? = some (some
        { r with featured := s.prog.featuredField { sc with defaultTarget := b.toNat } })) ∧
      (∀ i, i ≠ a.toNat → t.prog.sel[i]? = s.prog.sel[i]?) ∧
      (∀ r, s.prog.sel[a.toNat]? = some (some r) → t.route.work =
        if sc.hasArrow = true ∧ s.prog.featuredField { sc with defaultTarget := b.toNat } ≠ r.featured then
          appendWork s.route.work a.toNat
        else s.route.work) ∧
      FeaturedHanded s t ∧
      t = { s with
        port := t.port, path := t.path, screen := t.screen, prog := { s.prog with sel := t.prog.sel }
        route := { s.route with work := t.route.work }, cmd := t.cmd
        notice := { s.notice with dirty := t.notice.dirty } }

/-- RESCAN in READY, of a table whose window is not disabled, begins: the slot stays EXECUTING, and the first
read covers the first four lines of the window, or all of them if there are fewer, each with its barrier.
When the last line of a read has arrived, the untouched units of its arrived lines that the table has are
taken at one instant: an entry of the programme with its evaluation, a segment's state, a cabin's home
station; each is counted as rebuilt, and every other unit stands. Then the next read starts, of the next four
lines or those that remain, with its touched marks clear; where no line is left, or a line has failed, the
command ends DONE with the rebuilt count, and the FAULT flag if a line has failed. Rejected entries are
reported in rising index, the model's choice, log 46; the cabins of a hand-over are notified once, after all of
its units, in set order, the model's choice, log 35. -/
def Obligations.RescanRuns : Prop :=
  (∀ (tag : Tag) (seq : Byte) (a : Word) (table : ScanTable) (v : Window) (s : State) (base : Addr),
      s.slotOpen base → s.isReady = true → scanTableOf a.toNat = some table → s.cfg.windowOf table = some v →
      let w := s.slotWritten base 16 seq [a]
      let record : Rescan :=
        { table, nextLine := min 4 v.lines, rebuilt := 0, first := 0, count := min 4 v.lines
          touched := List.replicate (min 4 v.lines * unitsPerLine table) false }
      RunsTo (.rescan tag seq a) s { w with
        cmd := { w.cmd with rescan := some record }
        path := { w.path with own := s.path.own.set 1 (some
          ((List.range (min 4 v.lines)).map fun i =>
            { addr := v.base + BitVec.ofNat 32 (64 * i)
              st := startState w.path.pwq (v.base + BitVec.ofNat 32 (64 * i)) })) } }) ∧
  ∀ (s : State) (l : Fin 4) (a : ReadAnswer) (r : Rescan) (v : Window) (lines : List OwnLine) (q : OwnLine) (n : Nat)
    (base : Addr), s.cmd.rescan = some r → s.cfg.windowOf r.table = some v → s.cfg.control = some base →
    s.path.own[1] = some lines → lines[l.val]? = some q → q.st = .issued n →
    (∀ (j : Nat) (x : OwnLine), j ≠ l.val → lines[j]? = some x → x.st.inFlight = false) →
    let after : List (Option LineData) := (lines.set l.val { q with st := match a with
      | .data d => .arrived d
      | .error => .failed }).map OwnLine.handed
    let per := unitsPerLine r.table
    let first := r.first * per
    let units := after.length * per
    let size := match r.table with
      | .programme => s.prog.shadow.length
      | .segments => s.route.segments.length
      | .cabins => s.cabin.cabins.length
    -- The arrived line that holds unit `i` of the table, where the unit is to be taken.
    let source (i : Nat) : Option LineData :=
      if first ≤ i ∧ i < first + units ∧ i < size ∧ r.touched.getD (i - first) false = false then
        (after[(i - first) / per]?).join
      else none
    let offset (i : Nat) : Nat := (i - first) % per * unitBytes r.table
    let taken : List Nat := ((List.range units).map fun x => first + x).filter fun i => (source i).isSome
    let entry (i : Nat) (d : LineData) : ShadowEntry :=
      { bytes := sliceBytes d (offset i), status := statusOf (sliceBytes d (offset i)) }
    let count (s n : Nat) : Nat := if n = 0 then s else min (s + n) 65535
    let shown (h : Option StationIx) : Nat := ((h.bind s.effective).map Fin.val).getD 15
    let outside := s.muster.state = .drill ∨ s.muster.state = .muster ∨ s.muster.state = .standdown
    let failed := none ∈ after
    ∃ t, exec (.ownReadLineAnswer 1 l a) s = .next t ∧
      (r.table = .programme →
        (∀ (i : Nat) (e : ShadowEntry), s.prog.shadow[i]? = some e →
          t.prog.shadow[i]? = some (((source i).map (entry i)).getD e)) ∧
        t.prog.rejected = count s.prog.rejected
          (taken.countP fun i => ((source i).map fun d => (entry i d).status.isRejected).getD false) ∧
        t.prog.sel = s.screen.screens.map t.prog.select ∧ FeaturedHanded s t ∧
        t.prog = { s.prog with
          shadow := t.prog.shadow, order := t.prog.order, sel := t.prog.sel, rejected := t.prog.rejected } ∧
        NoticesHanded s.notice t.notice (taken.filterMap fun i =>
          match source i, s.prog.shadow[i]? with
          | some d, some e =>
            match (entry i d).status with
            | .rejected f =>
              if e.status = .rejected f then none
              else some { kind := .entryRejected, urgent := false, subject := BitVec.ofNat 32 i
                          detail := BitVec.ofNat 32 f, epoch := s.muster.epoch, stamp := s.time.uptime }
            | .empty | .listed => none
          | _, _ => none)) ∧
      (r.table = .segments →
        (∀ (i : Nat) (g : Segment), s.route.segments[i]? = some g →
          t.route.segments[i]? = some (((source i).map fun d => g.withCode (vecByte d (offset i))).getD g)) ∧
        t.route.badSeg = count s.route.badSeg
          (taken.countP fun i => ((source i).map fun d => decide (2 < (vecByte d (offset i)).toNat)).getD false) ∧
        t.route.work = (if t.route.segments = s.route.segments then s.route.work
          else s.arrowScreens.foldl appendWork s.route.work) ∧
        t.route = { s.route with
          segments := t.route.segments, badSeg := t.route.badSeg, work := t.route.work } ∧
        NoticesHanded s.notice t.notice []) ∧
      (r.table = .cabins →
        (∀ (i : Nat) (c : Cabin), s.cabin.cabins[i]? = some c →
          ∃ d, t.cabin.cabins[i]? = some d ∧
            d = { c with home := d.home, pend := d.pend, eligible := d.eligible, notified := d.notified } ∧
            (∀ x, source i = some x →
              d.home = if h : (vecByte x (offset i + 1)).toNat < 12 then some ⟨_, h⟩ else c.home) ∧
            (source i = none → d.home = c.home) ∧
            (outside → shown c.home ≠ shown d.home →
              d.pend = .urgent ∧ d.eligible = (if c.pend = .urgent then c.eligible else s.time.uptime)) ∧
            (¬ outside ∨ shown c.home = shown d.home → d.pend = c.pend ∧ d.eligible = c.eligible)) ∧
        t.cabin.badHome = count s.cabin.badHome
          (taken.countP fun i => ((source i).map fun d => decide (11 < (vecByte d (offset i + 1)).toNat)).getD false) ∧
        NoticesHanded s.notice t.notice (cabinNotices s t)) ∧
      (r.table ≠ .programme → t.prog = s.prog) ∧ (r.table ≠ .cabins → t.cabin = s.cabin) ∧
      (r.table = .programme → t.route = { s.route with work := t.route.work }) ∧
      (r.table = .cabins → t.route = s.route) ∧
      (¬ failed → r.nextLine < v.lines →
        let more := min 4 (v.lines - r.nextLine)
        let record : Rescan :=
          { table := r.table, nextLine := r.nextLine + more, rebuilt := r.rebuilt + taken.length
            first := r.nextLine, count := more, touched := List.replicate (more * per) false }
        t.cmd = { s.cmd with rescan := some record } ∧
        t.path.own = s.path.own.set 1 (some ((List.range more).map fun i =>
          { addr := v.base + BitVec.ofNat 32 (64 * (r.nextLine + i))
            st := startState s.path.pwq (v.base + BitVec.ofNat 32 (64 * (r.nextLine + i))) })) ∧
        List.Forall₂ SameWrite s.path.iwq t.path.iwq) ∧
      (failed ∨ v.lines ≤ r.nextLine →
        let fault := after.any Option.isNone
        let detail : Word := BitVec.ofNat 32 (r.rebuilt + taken.length)
        let flags := (if s.cmd.overrunMark = true then 1#8 else 0) ||| (if fault = true then 4#8 else 0)
        (fault = true ↔ failed) ∧ t.path.own = s.path.own.set 1 none ∧
        (16 ≤ s.path.iwq.length →
          t.cmd = { s.cmd with rescan := none, held := some { outcome := .done, fault := fault, detail := detail } }) ∧
        (s.path.iwq.length < 16 →
          t.cmd = { s.cmd with
            rescan := none, executing := false, held := none
            last := { seq := s.cmd.seqInHand, outcome := 1, flags := flags } } ∧
          ∃ m, List.Forall₂ SameWrite s.path.iwq m ∧ t.path.iwq = m ++
            [{ kind := .result, addr := base, en := enablesAt 32 8
               data := lineAt 32 ([s.cmd.seqInHand, 1, flags, 0] ++ bytes32 detail) }])) ∧
      t = { s with
        path := { s.path with
          own := t.path.own, iwq := t.path.iwq
          memFault := match a with
            | .data _ => s.path.memFault
            | .error => min (s.path.memFault + 1) 65535 }
        cmd := t.cmd, prog := t.prog, route := t.route, cabin := t.cabin, notice := t.notice }

/-- SET RING moves an empty ring to a valid descriptor: head and tail are 0, there is no urgent slot, a tail
word write of 0 is due and the IRQ line is evaluated again. It ends DONE with the new entry count. -/
def Obligations.SetRingMoves : Prop :=
  ∀ (tag : Tag) (seq : Byte) (s : State) (base : Addr), s.slotOpen base → s.notice.head = s.notice.tail →
    let d := s.notice
    16 ≤ d.descCount → d.descCount ≤ 1024 → 1 ≤ d.descWatermark → d.descWatermark ≤ d.descCount - 1 →
    d.descBase.toNat + d.descCount * 16 ≤ 4294967296 →
    RunsTo (.setRing tag seq) s
      (State.placeResult
        { s.slotWritten base 17 seq [] with
          notice := { d with
            ring := { base := d.descBase, count := d.descCount, watermark := d.descWatermark }
            head := 0, tail := 0, urgent := none, tailDue := true, irq := false } }
        { outcome := .done, detail := BitVec.ofNat 32 d.descCount })

/-- A code that is not 0 and names no command ends UNKNOWN with detail 0, and changes no state beyond the
slot's own. A command word with code 0 starts nothing: the copy takes its bytes. In DEGRADED, where there is
no station table, the station commands, PUBLISH PAGE, the two window commands, SET DEFAULT TARGET and RESCAN
end REFUSED_STATE. A command whose argument is out of its range ends REFUSED_RANGE, and PUBLISH PAGE outside
NORMAL, SCHEDULE SHIFT while the clock is UNSET, RESCAN of a table whose window is disabled and SET RING with
a ring that is not empty end REFUSED_STATE. Each refusal has detail 0 and changes nothing but the slot. -/
def Obligations.CommandsWithoutEffect : Prop :=
  (∀ (tag : Tag) (seq code : Byte) (s : State) (base : Addr), s.slotOpen base → 18 ≤ code.toNat →
      RunsTo (.unknownCommand tag seq code) s
        ((s.slotWritten base code seq []).placeResult { outcome := .unknown })) ∧
  (∀ (tag : Tag) (first : LineNo) (seq : Byte) (args : List Word) (s : State), s.started = true →
      s.cfg.control = some (lineAddr first) → s.path.pwq.length < 32 →
      RunsTo (.pspWrite { tag, first, lines := [slotLine 0 seq args] }) s { s with
        port := { s.port with psp := some .accept }
        path := { s.path with
          pwq := s.path.pwq ++ [{ addr := lineAddr first, data := (slotLine 0 seq args).data
                                  en := (slotLine 0 seq args).en, seq := s.path.seq }]
          seq := s.path.seq + 1 }
        cmd := { s.cmd with copy := sliceBytes (slotLine 0 seq args).data 0 } }) ∧
  ∀ (tag : Tag) (seq : Byte) (a b c : Word) (s : State) (base : Addr), s.slotOpen base →
    let refused (code : Byte) (args : List Word) (o : CmdOutcome) : State :=
      (s.slotWritten base code seq args).placeResult { outcome := o }
    (s.loader.phase = .degraded → s.station.table = none →
      RunsTo (.stationClose tag seq a) s (refused 6 [a] .refusedState) ∧
      RunsTo (.stationOpen tag seq a) s (refused 7 [a] .refusedState) ∧
      RunsTo (.setAlternate tag seq a b) s (refused 8 [a, b] .refusedState) ∧
      RunsTo (.publishPage tag seq a b c) s (refused 9 [a, b, c] .refusedState) ∧
      RunsTo (.openWindow tag seq) s (refused 10 [] .refusedState) ∧
      RunsTo (.closeWindow tag seq) s (refused 11 [] .refusedState) ∧
      RunsTo (.setDefaultTarget tag seq a b) s (refused 15 [a, b] .refusedState) ∧
      RunsTo (.rescan tag seq a) s (refused 16 [a] .refusedState)) ∧
    (s.station.table ≠ none →
      (12 ≤ a.toNat →
        RunsTo (.stationClose tag seq a) s (refused 6 [a] .refusedRange) ∧
        RunsTo (.stationOpen tag seq a) s (refused 7 [a] .refusedRange)) ∧
      (12 ≤ a.toNat ∨ (12 ≤ b.toNat ∧ b ≠ 255) →
        RunsTo (.setAlternate tag seq a b) s (refused 8 [a, b] .refusedRange))) ∧
    (255 < a.toNat ∨ 86399 < b.toNat → RunsTo (.setClock tag seq a b) s (refused 12 [a, b] .refusedRange)) ∧
    (let shift := c.toInt
     let good := a.toNat ≤ 255 ∧ b.toNat ≤ 1439 ∧ shift ≠ 0 ∧ shift % 15 = 0 ∧ -120 ≤ shift ∧ shift ≤ 120 ∧
       0 ≤ (b.toNat : Int) + shift ∧ (b.toNat : Int) + shift ≤ 1439
     (¬ good → RunsTo (.scheduleShift tag seq a b c) s (refused 13 [a, b, c] .refusedRange)) ∧
     (good → s.prog.clockSet = false →
       RunsTo (.scheduleShift tag seq a b c) s (refused 13 [a, b, c] .refusedState))) ∧
    (s.isReady = true →
      (let good := (a.toNat < 12 ∨ a = 255) ∧ (b.toNat < 4 ∨ b = 255) ∧ (c.toNat < 3 ∨ c = 255)
       (¬ good → RunsTo (.publishPage tag seq a b c) s (refused 9 [a, b, c] .refusedRange)) ∧
       (good → s.muster.state ≠ .normal →
         RunsTo (.publishPage tag seq a b c) s (refused 9 [a, b, c] .refusedState))) ∧
      (s.screen.screens.length ≤ a.toNat ∨ 31 < b.toNat →
        RunsTo (.setDefaultTarget tag seq a b) s (refused 15 [a, b] .refusedRange)) ∧
      (2 < a.toNat → RunsTo (.rescan tag seq a) s (refused 16 [a] .refusedRange)) ∧
      ∀ table, scanTableOf a.toNat = some table → s.cfg.windowOf table = none →
        RunsTo (.rescan tag seq a) s (refused 16 [a] .refusedState)) ∧
    (let d := s.notice
     (d.head ≠ d.tail → RunsTo (.setRing tag seq) s (refused 17 [] .refusedState)) ∧
     (d.head = d.tail →
       d.descCount < 16 ∨ 1024 < d.descCount ∨ d.descWatermark < 1 ∨ d.descCount - 1 < d.descWatermark ∨
         4294967296 < d.descBase.toNat + d.descCount * 16 →
       RunsTo (.setRing tag seq) s (refused 17 [] .refusedRange)))

/-! ## Lines, timers and clocks -/

/-- A change of a raw level starts the line's deglitch count again from zero, and a level that is already
there changes nothing. Nothing else changes. A raw level that has differed from the deglitched level for
20 ms becomes the deglitched level. For a line other than BELL, and for BELL before start-up has ended,
nothing else changes. Before 20 ms nothing changes:
that the expiry is a command which a count still short of its limit leaves without effect is the model's choice,
log 2 and log 31. -/
def Obligations.FiltersFollowPins : Prop :=
  (∀ (line : InputLine) (level : Bool) (s : State),
      let f := s.lines.get line
      let g := if f.raw = level then f else { f with raw := level, degCount := 0 }
      exec (.rawLineChange line level) s = .next { s with lines := s.lines.put line g }) ∧
  ∀ (line : InputLine) (s : State),
    let f := s.lines.get line
    (f.raw ≠ f.deg → 20 ≤ f.degCount → (line ≠ .bell ∨ s.started = false) →
      exec (.deglitchExpiry line) s = .next { s with
        lines := s.lines.put line { f with deg := f.raw, degCount := 0, debCount := 0 } }) ∧
    ((f.raw = f.deg ∨ f.degCount < 20) → exec (.deglitchExpiry line) s = .next s)

/-- A fall of the deglitched BELL level classifies a high period below 4000 ms: in COUNTING noise leaves the
count unless the gap has expired, SHORT counts and restarts the gap timer, INVALID loses the count; in
IDLE SHORT begins a count and any other class changes nothing; in LONG the state becomes IDLE. A rise in
IDLE or COUNTING starts the high timer. The gap timer's expiry while BELL is low loses the count; during a
high period it sets the gap-expired mark and leaves the count. Nothing else changes. -/
def Obligations.BellRecogniser : Prop :=
  (∀ (s : State),
      let f := s.lines.bell
      let m := s.muster
      let after (b : Bool) (n : MusterUnit) : State :=
        { s with lines := { s.lines with bell := { f with deg := b, degCount := 0, debCount := 0 } }, muster := n }
      s.started = true → f.raw ≠ f.deg → 20 ≤ f.degCount →
      (f.raw = true → m.bell ≠ .long →
        exec (.deglitchExpiry .bell) s = .next (after true { m with highTimer := some 0 })) ∧
      (f.raw = false → m.bell = .long →
        exec (.deglitchExpiry .bell) s = .next (after false { m with bell := .idle, highTimer := none })) ∧
      ∀ d, f.raw = false → m.highTimer = some d →
        (m.bell = .idle → d < 300 ∨ (2000 ≤ d ∧ d < 4000) →
          exec (.deglitchExpiry .bell) s = .next (after false { m with highTimer := none })) ∧
        (m.bell = .idle → 300 ≤ d → d < 2000 →
          exec (.deglitchExpiry .bell) s = .next (after false
            { m with bell := .counting, count := 1, highTimer := none, gapTimer := some 0 })) ∧
        (m.bell = .counting → d < 300 → m.gapExpired = false →
          exec (.deglitchExpiry .bell) s = .next (after false { m with highTimer := none })) ∧
        (m.bell = .counting → (d < 300 ∧ m.gapExpired = true) ∨ (2000 ≤ d ∧ d < 4000) →
          exec (.deglitchExpiry .bell) s = .next (after false
            { m with bell := .idle, count := 0, highTimer := none, gapTimer := none, gapExpired := false })) ∧
        (m.bell = .counting → 300 ≤ d → d < 2000 →
          exec (.deglitchExpiry .bell) s = .next (after false
            { m with count := min (m.count + 1) 15, highTimer := none, gapTimer := some 0, gapExpired := false }))) ∧
  ∀ (s : State) (n : Nat), s.muster.gapTimer = some n → 3000 ≤ n →
    exec .gapTimerExpiry s = .next { s with muster :=
      if s.lines.bell.deg = true then { s.muster with gapTimer := none, gapExpired := true }
      else { s.muster with bell := .idle, count := 0, gapTimer := none, gapExpired := false } }

/-- A long blast after fewer than seven short blasts raises nothing: the recogniser waits in LONG. After
seven or more, outside MUSTER, it is a GENERAL ALARM: ALARM_HEARD is queued, the muster state becomes MUSTER
with cause BELL, the epoch increments, and every effect of a change of state follows, with its notices
(MUSTER_STATE first, the others in an order that is free, log 10). In MUSTER it is a repeat. That a change
uncovers every screen until its next frame start, whatever its plan, is the model's reading, log 43. -/
def Obligations.LongBlastActs : Prop :=
  ∀ (s : State) (d : Nat), s.muster.bell ≠ .long → s.muster.highTimer = some d → 4000 ≤ d →
    let l : MusterUnit := { s.muster with
      bell := .long, count := 0, highTimer := none, gapTimer := none, gapExpired := false }
    let heard : Notice := { kind := .alarmHeard, urgent := true, subject := 0
                            detail := BitVec.ofNat 32 s.muster.count, epoch := s.muster.epoch
                            stamp := s.time.uptime }
    (s.muster.count < 7 → exec .longBlast s = .next { s with muster := l }) ∧
    (7 ≤ s.muster.count →
      s.muster.state = .normal ∨ s.muster.state = .drill ∨ s.muster.state = .standdown →
      ∃ t, exec .longBlast s = .next t ∧
        MusterChanged { s with muster := l, notice := s.notice.push heard } t
          { l with state := .muster, epoch := s.muster.epoch + 1, cause := .bell, standdown := none } .bell ∧
        t.path = { s.path with iwq := t.path.iwq } ∧ t.port = s.port ∧
        t.cmd = { s.cmd with maint := t.cmd.maint }) ∧
    (7 ≤ s.muster.count → s.muster.state = .muster →
      RunsTo .longBlast s { s with
        muster := { l with repeats := min (s.muster.repeats + 1) 65535 }, notice := s.notice.push heard })

/-- A debounced level takes the deglitched level that has differed from it for 200 ms (MUSTER, MAINT) or 100
ms (FIRE ZONE). A rise of MUSTER orders a muster with cause LINE, which in MUSTER is a repeat; its fall
changes no other state. A fall of MAINT closes an OPEN window with cause LINE; its rise, and a fall with
no window OPEN, change no other state. In READY a change of a FIRE ZONE's debounced level is taken into the
Route engine's copy, and the ARROW screens are appended if a present segment has that boundary zone. Before
start-up has ended the level of any line changes and nothing else, and so does a FIRE ZONE's in DEGRADED. The
order of the notices after MUSTER_STATE is free (log 10), and that a change
uncovers every screen until its next frame start, whatever its plan, is the model's reading, log 43. -/
def Obligations.DebouncedLevelsAct : Prop :=
  (∀ (s : State), s.started = true →
      let f := s.lines.muster
      let g := s.lines.maint
      let risen : State := { s with lines := { s.lines with muster := { f with deb := true, debCount := 0 } } }
      let low : State := { s with lines := { s.lines with maint := { g with deb := false, debCount := 0 } } }
      (f.deg = true → f.deb = false → 200 ≤ f.debCount →
        (s.muster.state = .normal ∨ s.muster.state = .drill ∨ s.muster.state = .standdown →
          ∃ t, exec (.debounceExpiry .muster) s = .next t ∧
            MusterChanged risen t
              { s.muster with state := .muster, epoch := s.muster.epoch + 1, cause := .line, standdown := none }
              .line ∧
            t.path = { s.path with iwq := t.path.iwq } ∧ t.port = s.port ∧
            t.cmd = { s.cmd with maint := t.cmd.maint }) ∧
        (s.muster.state = .muster →
          RunsTo (.debounceExpiry .muster) s
            { risen with muster := { s.muster with repeats := min (s.muster.repeats + 1) 65535 } })) ∧
      (f.deg = false → f.deb = true → 200 ≤ f.debCount →
        exec (.debounceExpiry .muster) s = .next { s with
          lines := { s.lines with muster := { f with deb := false, debCount := 0 } } }) ∧
      (g.deg = false → g.deb = true → 200 ≤ g.debCount → s.cmd.maint.isSome = true →
        RunsTo (.debounceExpiry .maint) s { low with
          cmd := { s.cmd with maint := none }
          route := { s.route with work := s.arrowScreens.foldl appendWork s.route.work }
          notice := s.notice.push { kind := .maintWindow, urgent := false, subject := 0, detail := 1
                                    epoch := s.muster.epoch, stamp := s.time.uptime } }) ∧
      (g.deg = false → g.deb = true → 200 ≤ g.debCount → s.cmd.maint = none →
        exec (.debounceExpiry .maint) s = .next low) ∧
      (g.deg = true → g.deb = false → 200 ≤ g.debCount →
        exec (.debounceExpiry .maint) s = .next { s with
          lines := { s.lines with maint := { g with deb := true, debCount := 0 } } })) ∧
  (∀ (s : State) (line : InputLine), s.started = false ∨ (s.loader.phase = .degraded ∧ ∃ n, line = .fire n) →
      let f := s.lines.get line
      ((line = .muster ∨ line = .maint) ∧ 200 ≤ f.debCount) ∨ ((∃ n, line = .fire n) ∧ 100 ≤ f.debCount) →
      f.deg ≠ f.deb →
      ∃ ls, exec (.debounceExpiry line) s = .next { s with lines := ls } ∧
        ls.get line = { f with deb := f.deg, debCount := 0 } ∧ ∀ other, other ≠ line → ls.get other = s.lines.get other) ∧
  ∀ (s : State) (n : Fin 8), s.isReady = true →
    let f := s.lines.fire[n]
    f.deg ≠ f.deb → 100 ≤ f.debCount →
    RunsTo (.debounceExpiry (.fire n)) s { s with
      lines := { s.lines with fire := s.lines.fire.set n { f with deb := f.deg, debCount := 0 } }
      route := { s.route with
        zones := s.route.zones.set n f.deg
        work := if s.route.segments.any (fun g => decide (g.zone = n.val + 1)) = true then
            s.arrowScreens.foldl appendWork s.route.work else s.route.work } }

/-- The standdown timer's expiry returns STANDDOWN to NORMAL, with every effect of a change of state, its
notices among them, and origin TIMER. The maintenance timer's expiry closes the window with cause TIMER. The
order of the notices after MUSTER_STATE is free (log 10), and that a change uncovers every screen until its next
frame start, whatever its plan, is the model's reading, log 43. -/
def Obligations.TimersExpire : Prop :=
  (∀ (s : State) (n : Nat), s.muster.state = .standdown → s.muster.standdown = some n →
      s.cfg.timing.standdownMinutes * 60000 ≤ n →
      ∃ t, exec .standdownTimerExpiry s = .next t ∧
        MusterChanged s t { s.muster with state := .normal, standdown := none } .timer ∧
        t.path = { s.path with iwq := t.path.iwq } ∧ t.port = s.port ∧ t.cmd = s.cmd) ∧
  ∀ (s : State) (n : Nat), s.cmd.maint = some n → s.cfg.timing.maintMinutes * 60000 ≤ n →
    RunsTo .maintTimerExpiry s { s with
      cmd := { s.cmd with maint := none }
      route := { s.route with work := s.arrowScreens.foldl appendWork s.route.work }
      notice := s.notice.push { kind := .maintWindow, urgent := false, subject := 0, detail := 3
                                epoch := s.muster.epoch, stamp := s.time.uptime } }

/-- A dark timer's expiry makes its screen DARK and not covered and stops the timer; SCREEN_DARK is URGENT
outside NORMAL. Where the report mark is set and every LIT screen is then covered, COVERAGE_COMPLETE follows
and the mark is cleared; SCREEN_DARK before it is the model's order, log 27. The line MUSTER_SHOWN follows. -/
def Obligations.DarkTimerExpires : Prop :=
  ∀ (s : State) (i : Fin 24) (sc : Screen) (n : Nat), s.screen.screens[i.val]? = some sc → sc.dark = some n →
    s.cfg.timing.darkMs ≤ n → s.muster.state ≠ .undecided →
    ∃ t, exec (.darkTimerExpiry i) s = .next t ∧
      (let report := coverageReport s.screen.mark t
       t.screen = { s.screen with
         mark := s.screen.mark && report.isEmpty
         screens := s.screen.screens.set i.val { sc with watch := .dark, dark := none, covered := false } } ∧
       NoticesHanded s.notice t.notice
         ({ kind := .screenDark, urgent := decide (s.muster.state ≠ .normal), subject := BitVec.ofNat 32 i.val
            detail := 0, epoch := s.muster.epoch, stamp := s.time.uptime } :: report)) ∧
      t.muster = { s.muster with shown := t.shownCondition } ∧
      t = { s with
        screen := t.screen, muster := t.muster, notice := t.notice
        path := { s.path with iwq := t.path.iwq } }

/-- The clock's advance within a minute moves the second and returns the phase to 0, and computes no
selections. At a minute boundary with no shift to apply they are computed. An advance that reaches the
pending shift's moment moves the second by the shift, clears it, reports it and computes them once. Changed
featured targets go to the Route engine. The uptime second count increments and wraps after 4294967295, and
from then every pending cabin whose eligible second has come is notified, in set order. Nothing but the
notified flags and the notices follows. -/
def Obligations.ClocksAdvance : Prop :=
  (∀ (s : State), s.prog.clockSet = true → 1000 ≤ s.prog.phase →
      let sec := if s.prog.sec + 1 < 86400 then s.prog.sec + 1 else 0
      let day := if s.prog.sec + 1 < 86400 then s.prog.day else min (s.prog.day + 1) 255
      ((∀ h, s.prog.shift = some h → ¬ (day = h.day ∧ sec = h.minute * 60)) → sec % 60 ≠ 0 →
        RunsTo .clockAdvance s { s with prog := { s.prog with sec := sec, day := day, phase := 0 } }) ∧
      ((∀ h, s.prog.shift = some h → ¬ (day = h.day ∧ sec = h.minute * 60)) → sec % 60 = 0 →
        ∃ t, exec .clockAdvance s = .next t ∧
          t.prog = { s.prog with
            sec := sec, day := day, phase := 0, sel := s.screen.screens.map t.prog.select } ∧
          FeaturedHanded s t ∧
          t = { s with
            prog := t.prog, route := { s.route with work := t.route.work }
            path := { s.path with iwq := t.path.iwq }, notice := { s.notice with dirty := t.notice.dirty } }) ∧
      ∀ h, s.prog.shift = some h → day = h.day → sec = h.minute * 60 →
        ∃ t, exec .clockAdvance s = .next t ∧
          t.prog = { s.prog with
            sec := ((sec : Int) + h.minutes * 60).toNat, day := day, phase := 0, shift := none
            sel := s.screen.screens.map t.prog.select } ∧
          FeaturedHanded s t ∧
          NoticesHanded s.notice t.notice
            [{ kind := .clockShifted, urgent := false, subject := 0, detail := BitVec.ofInt 32 h.minutes
               epoch := s.muster.epoch, stamp := s.time.uptime }] ∧
          t = { s with
            prog := t.prog, route := { s.route with work := t.route.work }
            path := { s.path with iwq := t.path.iwq }, notice := t.notice }) ∧
  ∀ (s : State), s.started = true → 1000 ≤ s.time.uptimePhase →
    ∃ t, exec .uptimeSecond s = .next t ∧
      t.time = { s.time with uptime := s.time.uptime + 1, uptimePhase := 0 } ∧
      t.cabin = { s.cabin with cabins := s.cabin.cabins.map fun c =>
        if c.pend ≠ .none ∧ c.eligible.toNat ≤ (s.time.uptime + 1).toNat then { c with notified := true } else c } ∧
      NoticesHanded s.notice t.notice (cabinNotices s t) ∧
      t = { s with
        time := t.time, cabin := t.cabin, notice := t.notice, path := { s.path with iwq := t.path.iwq } }

/-! ## Routes -/

/-- The idle Route engine takes the head of its list and decides the present target: in NORMAL the featured
target of a WAYFINDING screen, in DRILL and MUSTER the effective station of the screen's home station or NONE,
and no target otherwise. With a target and a route table it starts an own read of the two lines of the screen
and the target; with no table the result is FAULT, with target NONE it is NO_ROUTE, and with no target NONE.
A result of NO_ROUTE or FAULT is reported, unless it repeats the one it replaces. -/
def Obligations.RouteComputationStarts : Prop :=
  (∀ (s : State) (i : Nat) (sc : Screen), s.presentTarget i sc =
    match s.muster.state with
    | .normal =>
      match sc.conf.kind, s.prog.sel[i]? with
      | .wayfinding, some (some r) =>
        match r.featured with
        | some n => .at n
        | none => .noTarget
      | _, _ => .noTarget
    | .drill | .muster =>
      match s.station.table.bind fun x => x.effective[sc.conf.home] with
      | some e => .at e.val
      | none => .none
    | .standdown | .undecided => .noTarget) ∧
  ∀ (s : State) (i : Nat) (rest : List Nat) (sc : Screen), s.route.flight = none →
    s.route.work = i :: rest → s.screen.screens[i]? = some sc →
    (∀ n base, s.presentTarget i sc = .at n → s.route.tableBase = some base →
      let a := base + BitVec.ofNat 32 (i * 4096 + n * 128)
      exec .routeComputationStart s = .next { s with
        route := { s.route with work := rest, flight := some { screen := i, target := n } }
        path := { s.path with own := s.path.own.set 0 (some
          [{ addr := a, st := startState s.path.pwq a },
           { addr := a + 64, st := startState s.path.pwq (a + 64) }]) } }) ∧
    (∀ r, (s.presentTarget i sc = .noTarget ∧ r = RouteResult.none) ∨
        (s.presentTarget i sc = .none ∧ r = .noRoute none) ∨
        (∃ n, s.presentTarget i sc = .at n ∧ s.route.tableBase = none ∧ r = .fault n) →
      ∃ t, exec .routeComputationStart s = .next t ∧
        t.route = { s.route with work := rest, results := s.route.results.set i r, flight := none } ∧
        RouteReported s t i (s.route.results.getD i .none) r ∧
        t = { s with
          route := t.route, notice := t.notice, path := { s.path with iwq := t.path.iwq } })

/-- The last line of a route fetch ends the fetch, and the target is decided again. Where it is unchanged,
and both lines have arrived, the screen's result is the evaluation's and each invalid candidate is counted;
with a failed line it is FAULT. Where it has changed, the fetch restarts for the new target, or the
computation ends as it would at its start. NO_ROUTE and FAULT are reported unless the result repeats the one
it replaces, and the engine is IDLE once the computation has ended. -/
def Obligations.RouteEvaluated : Prop :=
  ∀ (s : State) (l : Fin 4) (f : Flight) (sc : Screen) (lines : List OwnLine) (q : OwnLine) (n : Nat)
    (a : ReadAnswer), s.route.flight = some f → s.screen.screens[f.screen]? = some sc →
    s.path.own[0] = some lines → lines[l.val]? = some q → q.st = .issued n →
    (∀ (j : Nat) (x : OwnLine), j ≠ l.val → lines[j]? = some x → x.st.inFlight = false) →
    let states : List LineState := (lines.set l.val { q with st := match a with
      | .data d => .arrived d
      | .error => .failed }).map OwnLine.st
    let target := s.presentTarget f.screen sc
    let before := s.route.results.getD f.screen .none
    ∃ t, exec (.ownReadLineAnswer 0 l a) s = .next t ∧
      (let ends (r : RouteResult) (recFault : Nat) : Prop :=
         t.path.own = s.path.own.set 0 none ∧ RouteReported s t f.screen before r ∧
         t.route = { s.route with
           flight := none, recFault := recFault, results := s.route.results.set f.screen r }
       (target = .at f.target →
         (∀ d0 d1, states = [.arrived d0, .arrived d1] →
           ends (s.route.evaluate s.muster.state before f.target d0 d1)
             (min (s.route.recFault +
               (List.range 4).countP fun k => (readCandidate s.route.segments.length d0 d1 k).isNone) 65535)) ∧
         ((∀ d0 d1, states ≠ [.arrived d0, .arrived d1]) → ends (.fault f.target) s.route.recFault)) ∧
       (target = .noTarget → ends .none s.route.recFault) ∧
       (target = .none → ends (.noRoute none) s.route.recFault) ∧
       ∀ m, m ≠ f.target → target = .at m →
         (s.route.tableBase = none → ends (.fault m) s.route.recFault) ∧
         ∀ base, s.route.tableBase = some base →
           let b := base + BitVec.ofNat 32 (f.screen * 4096 + m * 128)
           t.route = { s.route with flight := some { screen := f.screen, target := m } } ∧
           NoticesHanded s.notice t.notice [] ∧
           t.path.own = s.path.own.set 0 (some
             [{ addr := b, st := startState s.path.pwq b },
              { addr := b + 64, st := startState s.path.pwq (b + 64) }])) ∧
      t = { s with
        route := t.route, notice := t.notice
        path := { s.path with
          own := t.path.own, iwq := t.path.iwq
          memFault := match a with
            | .data _ => s.path.memFault
            | .error => min (s.path.memFault + 1) 65535 } }

/-- A candidate record is valid where its valid flag is set, it lists 1 to 14 segments, all of them present,
and its glyph code is 0 to 9. An evaluation takes the available candidates: valid ones whose segments are
all available in the muster state that stands, that is, not CLOSED, with no asserted boundary zone, and no
LIFT in DRILL or MUSTER. A candidate's cost is the saturating sum of its segments' costs. With none available
the outcome is NO_ROUTE. Else the cheapest, of lowest index among equals, is selected; but a candidate that
the present result selects for the target, if it is available, stays unless the cheapest costs less than its
cost less one eighth of it, rounded down. -/
def Obligations.EvaluationSelects : Prop :=
  ∀ (r : RouteUnit) (st : MusterState) (present : RouteResult) (target : Nat) (d0 d1 : LineData),
    let byte (k o : Nat) : Byte := if k < 2 then vecByte d0 (32 * k + o) else vecByte d1 (32 * (k - 2) + o)
    let valid (k : Nat) (c : Candidate) : Prop :=
      (byte k 0).getLsbD 0 = true ∧ c.glyph = (byte k 1).toNat ∧ c.glyph ≤ 9 ∧
      c.ids = (List.range (byte k 2).toNat).map (fun j => (byte k (4 + j)).toNat) ∧
      1 ≤ (byte k 2).toNat ∧ (byte k 2).toNat ≤ 14 ∧ ∀ i ∈ c.ids, i < r.segments.length
    let usable (g : Segment) : Prop :=
      g.soft ≠ .closed ∧ (g.zone = 0 ∨ (r.zones[g.zone - 1]?).getD false = false) ∧
      ¬ (g.kind = .lift ∧ (st = .drill ∨ st = .muster))
    let avail (k : Nat) (c : Candidate) : Prop :=
      k < 4 ∧ valid k c ∧ ∀ i ∈ c.ids, ∀ g, r.segments[i]? = some g → usable g
    let cost (c : Candidate) : Nat :=
      min ((c.ids.filterMap fun i => r.segments[i]?).map segmentCost).sum 65535
    let chosen (k : Nat) (c : Candidate) : RouteResult := .selected target k (cost c) c.glyph
    (∀ k c, readCandidate r.segments.length d0 d1 k = some c ↔ valid k c) ∧
    ((∀ k c, ¬ avail k c) → r.evaluate st present target d0 d1 = .noRoute (some target)) ∧
    ∀ k c, avail k c → (∀ k' c', avail k' c' → cost c < cost c' ∨ (cost c = cost c' ∧ k ≤ k')) →
      ((∀ k0 c0 g0 c1, present = .selected target k0 c0 g0 → ¬ avail k0 c1) →
        r.evaluate st present target d0 d1 = chosen k c) ∧
      ∀ k0 c0 g0 c1, present = .selected target k0 c0 g0 → avail k0 c1 →
        r.evaluate st present target d0 d1 =
          if cost c < cost c1 - cost c1 / 8 then chosen k c else chosen k0 c1

/-- The cost of an available segment: the base cost is the length times the kind's weight in sixteenths,
rounded up, four times that if the software state is RESTRICTED; for a length of 1 to 1000 metres it lies
between 1 and 12000. -/
def Obligations.SegmentCosts : Prop :=
  ∀ (g : Segment),
    let weight := match g.kind with
      | .corridor => 16
      | .openDeck => 20
      | .bulkheadPassage => 24
      | .stairUp => 48
      | .stairDown => 32
      | .lift => 8
    (g.soft = .opened → 16 * segmentCost g < g.length * weight + 16 ∧ g.length * weight ≤ 16 * segmentCost g) ∧
    (g.soft = .restricted → segmentCost g = 4 * segmentCost { g with soft := .opened }) ∧
    (1 ≤ g.length → g.length ≤ 1000 → 1 ≤ segmentCost g ∧ segmentCost g ≤ 12000)

/-! ## Start-up -/

/-- A reset, in any phase, discards everything the part keeps: what is left is the state of reset, with the
levels at the pins as they are. The waiting commands and the free counter are not the part's (log 14). The
release of internal reset latches the straps, forms the strap index and enters LOAD; every filter starts
deasserted with its counts at zero. -/
def Obligations.ResetAndRelease : Prop :=
  (∀ (s : State), ∃ t, exec .reset s = .next t ∧
      t = { State.reset with pending := s.pending, free := s.free, lines := t.lines } ∧
      ∀ line : InputLine, t.lines.get line = { raw := (s.lines.get line).raw }) ∧
  ∀ (s : State) (a b : StrapLevel), s.loader.phase = .reset →
    ∃ t, exec (.resetRelease a b) s = .next t ∧
      t.loader = { s.loader with
        phase := .load, sinceRelease := 0, strap1 := a, strap0 := b
        result := { s.loader.result with strapIndex := 4 * strapNumber a + strapNumber b } } ∧
      t.loader.controlBase.toNat = 0x3F000000 + (4 * strapNumber a + strapNumber b) * 0x00100000 ∧
      (∀ line : InputLine, t.lines.get line = { raw := (s.lines.get line).raw }) ∧
      t = { s with loader := t.loader, lines := t.lines }

/-- The end of ROM loading decides the outcome: a bad signature, a sum that differs, or a malformed record
gives DEGRADED with its reason, in that order of tests, and nothing is brought into range. The sum is that of
every byte through the last of the records, modulo 65536; the bytes beyond a short device's end are free (log
12). The records are staged, skipped or malformed one after another, by their types and lengths (log 23). Where
every test passes, CHECK leaves the contents of each block, brought into range, and notes CLAMPED and OVERLAP. The
loader waits in CHECK, and no other block changes. The model's choices in it: CHECK is worked out at the end
of loading (log 37), an overlap is with an enabled window (log 19), a deck mask is tested for 0 before its
bits are cleared (log 20), the low six bits of the ring base are ignored (log 26), what is noted of a page entry
with several causes (log 33), segments beyond 256 are cut off (log 34), a clamped cabin count is noted also
where the cabin window is disabled (log 40), a route table with no screens stands (log 42), and a frame region is
cut with the values brought into range (log 49). -/
def Obligations.RomLoadDecides : Prop :=
  (∀ (s : State) (rom : List Byte), s.loader.phase = .load →
    let signature := (romByte rom 0).extractLsb' 6 2 = 2#2
    let sum := romSum rom = romStoredSum rom
    let size := number2 (romByte rom) 1
    let format := (loadRecords rom).malformed = false
    ∃ t, exec (.romLoadEnd rom) s = .next t ∧ t.loader.phase = .check ∧
      (¬ signature → t.loader.result.reason = .signature ∧ t.loader.staging = []) ∧
      (signature → ¬ sum → t.loader.result.reason = .sum) ∧
      (signature → sum → ¬ format → t.loader.result.reason = .format) ∧
      (signature → t.loader.staging = (loadRecords rom).staging ∧
        t.loader.result.skipped = (loadRecords rom).skipped) ∧
      (¬ signature ∨ ¬ sum ∨ ¬ format → t.loader.result.degraded = true ∧ t.loader.checked = none ∧
        t.loader.result.clamped = false ∧ t.loader.result.overlap = false) ∧
      (signature → sum → format → t.loader.result.reason = .none ∧ t.loader.result.degraded = false ∧
        let k := checkContents s.loader.controlBase t.loader.staging
        t.loader.checked = some k.contents ∧ t.loader.result.clamped = k.clamped ∧
        t.loader.result.overlap = k.overlap) ∧
      (∀ i < rom.length, some (romByte rom i) = rom[i]?) ∧
      (romSum rom).toNat = ((List.range (3 + size)).map fun i => (romByte rom i).toNat).sum % 65536 ∧
      (romStoredSum rom).toNat = number2 (romByte rom) (3 + size) ∧
      RecordsStaged ((List.range size).map fun i => romByte rom (3 + i)) {} (loadRecords rom) ∧
      (signature → t.loader.runningSum = romSum rom ∧ t.loader.storedSum = romStoredSum rom) ∧
      t.loader.result.strapIndex = s.loader.result.strapIndex ∧ t = { s with loader := t.loader }) ∧
  ∀ (control : Addr) (staging : List (Nat × List Byte)),
    ContentsChecked control staging (checkContents control staging)

/-- Start-up ends in READY where CHECK left contents and 220 ms have passed: every block takes its contents,
every screen is UNKNOWN and without a plan, the clock is UNSET with no shift, every entry of the shadow is EMPTY,
no screen has a NOW, a NEXT or a countdown and a WAYFINDING screen has its default target, the work list holds
the ARROW screens, the ring descriptor's copy is that of the ring in use with a head index of 0, the whole status
block is dirty and a tail word is due. The recogniser is IDLE, or LONG while BELL is high. With the MUSTER level
deasserted the muster state is NORMAL with epoch 0. With it asserted it is MUSTER with cause LINE and epoch 1,
MUSTER_SHOWN is asserted (no screen is LIT), every cabin has taken an URGENT cause, and MUSTER_STATE is the first
notice; the others follow in an order that is free (log 10). Start-up ends in DEGRADED where CHECK left no
contents: the control block and the default ring alone are there, every tag is GENERAL, and the muster state, the
recogniser and the Notice writer are decided in the same way, MUSTER_STATE then being the only notice. -/
def Obligations.StartUpEnds : Prop :=
  (∀ (s : State) (c : Contents), s.loader.phase = .check → 220 ≤ s.loader.sinceRelease →
      s.loader.checked = some c →
      let bell : BellState := if s.lines.bell.deg = true then .long else .idle
      ∃ t, exec .startUpEnd s = .next t ∧ t.loader = { s.loader with phase := .ready } ∧
        t.cfg = { control := some s.loader.controlBase, protect := c.protect, programme := c.programme
                  segment := c.segment, cabin := c.cabin, tags := c.tags, timing := c.timing } ∧
        t.path = {} ∧ t.cmd = {} ∧ t.port = s.port ∧
        t.screen = { screens := c.screens.map fun q => { conf := q.1, defaultTarget := q.2 }, glyphs := c.glyphs } ∧
        t.station = { table := some { entries := c.stations, effective := allEffective c.stations }
                      pages := c.pages } ∧
        t.route = { segments := c.segments, zones := s.lines.fire.map Filter.deb, tableBase := c.tableBase
                    work := t.arrowScreens, results := List.replicate c.screens.length .none } ∧
        t.prog = { clockSet := false, shift := none, order := [], rejected := 0
                   shadow := List.replicate 256 { bytes := Vector.replicate 32 0, status := .empty }
                   sel := c.screens.map fun q => match q.1.kind with
                     | .general => none
                     | .programme => some { now := none, next := none, countdown := none, featured := none }
                     | .wayfinding => some { now := none, next := none, countdown := none, featured := some q.2 } } ∧
        t.time = { s.time with uptime := 0, uptimePhase := 0 } ∧ t.lines = s.lines ∧
        (let d := vecByte t.notice.desc
         number4 d 0 = c.ring.base.toNat ∧ number2 d 4 = c.ring.count % 65536 ∧
         number2 d 6 = c.ring.watermark % 65536 ∧ number2 d 8 = 0) ∧
        (s.lines.muster.deb = false →
          t.muster = { state := .normal, bell := bell } ∧
          t.cabin = { cabins := List.replicate c.cabinCount {} } ∧
          t.notice = { ring := c.ring, desc := t.notice.desc, dirty := Vector.replicate 7 true
                       tailDue := true }) ∧
        (s.lines.muster.deb = true →
          t.muster = { state := .muster, epoch := 1, cause := .line, bell := bell, shown := true } ∧
          t.cabin.cabins =
            List.replicate c.cabinCount { pend := .urgent, eligible := 0, notified := true } ∧
          t.cabin.badHome = 0 ∧
          (∃ rest, t.notice.queue = { kind := .musterState, urgent := true, subject := 0
                                      detail := musterDetail .muster .line, epoch := 1, stamp := 0 } :: rest) ∧
          ChangeNotices { t with
            muster := { state := .normal, bell := bell }, cabin := { cabins := List.replicate c.cabinCount {} }
            notice := { ring := c.ring, desc := t.notice.desc, dirty := Vector.replicate 7 true
                        tailDue := true } } t t.muster .line ∧
          t.notice.dirty = Vector.replicate 7 true)) ∧
  ∀ (s : State), s.loader.phase = .check → 220 ≤ s.loader.sinceRelease → s.loader.checked = none →
    let bell : BellState := if s.lines.bell.deg = true then .long else .idle
    let base := s.loader.controlBase + 2048
    ∃ t, exec .startUpEnd s = .next t ∧ t.loader = { s.loader with phase := .degraded } ∧
      t.cfg = { control := some s.loader.controlBase } ∧ t.path = {} ∧ t.cmd = {} ∧ t.port = s.port ∧
      t.screen = {} ∧ t.station = {} ∧ t.route = {} ∧ t.prog = {} ∧ t.cabin = {} ∧
      t.time = { s.time with uptime := 0, uptimePhase := 0 } ∧ t.lines = s.lines ∧
      (let d := vecByte t.notice.desc
       number4 d 0 = base.toNat ∧ number2 d 4 = 16 ∧ number2 d 6 = 1 ∧ number2 d 8 = 0) ∧
      t.notice = { ring := { base := base, count := 16, watermark := 1 }, desc := t.notice.desc
                   dirty := Vector.replicate 7 true, tailDue := true, queue := t.notice.queue } ∧
      (s.lines.muster.deb = false →
        t.muster = { state := .normal, epoch := 0, cause := .none, bell := bell, shown := false } ∧
        t.notice.queue = []) ∧
      (s.lines.muster.deb = true →
        t.muster = { state := .muster, epoch := 1, cause := .line, bell := bell, shown := true } ∧
        t.notice.queue = [{ kind := .musterState, urgent := true, subject := 0
                            detail := musterDetail .muster .line, epoch := 1, stamp := 0 }])
end

