-- ==== Sys2Proof/Laws/Frames.lean ====
section
/-! SUPPORT. Frames: for each operation of the machine, the blocks of the state that it leaves as they
are. Each lemma is one conjunction, which simp takes apart. -/

namespace Sys2Proof.Machine

open Sys2Proof

@[simp] theorem State.hand_frame (s : State) (n : Notice) :
    (s.hand n).pending = s.pending ∧ (s.hand n).free = s.free ∧ (s.hand n).port = s.port ∧
    (s.hand n).loader = s.loader ∧ (s.hand n).time = s.time ∧ (s.hand n).cfg = s.cfg ∧
    (s.hand n).path = s.path ∧ (s.hand n).lines = s.lines ∧ (s.hand n).muster = s.muster ∧
    (s.hand n).screen = s.screen ∧ (s.hand n).station = s.station ∧ (s.hand n).route = s.route ∧
    (s.hand n).prog = s.prog ∧ (s.hand n).cabin = s.cabin ∧ (s.hand n).cmd = s.cmd := by
  and_intros <;> rfl

@[simp] theorem State.handAll_frame (s : State) (ns : List Notice) :
    (s.handAll ns).pending = s.pending ∧ (s.handAll ns).free = s.free ∧
    (s.handAll ns).port = s.port ∧ (s.handAll ns).loader = s.loader ∧
    (s.handAll ns).time = s.time ∧ (s.handAll ns).cfg = s.cfg ∧ (s.handAll ns).path = s.path ∧
    (s.handAll ns).lines = s.lines ∧ (s.handAll ns).muster = s.muster ∧
    (s.handAll ns).screen = s.screen ∧ (s.handAll ns).station = s.station ∧
    (s.handAll ns).route = s.route ∧ (s.handAll ns).prog = s.prog ∧
    (s.handAll ns).cabin = s.cabin ∧ (s.handAll ns).cmd = s.cmd := by
  and_intros <;> rfl

@[simp] theorem State.placeIwq_frame (s : State) (e : IwqEntry) :
    (s.placeIwq e).pending = s.pending ∧ (s.placeIwq e).free = s.free ∧
    (s.placeIwq e).port = s.port ∧ (s.placeIwq e).loader = s.loader ∧
    (s.placeIwq e).time = s.time ∧ (s.placeIwq e).cfg = s.cfg ∧ (s.placeIwq e).lines = s.lines ∧
    (s.placeIwq e).muster = s.muster ∧ (s.placeIwq e).screen = s.screen ∧
    (s.placeIwq e).station = s.station ∧ (s.placeIwq e).route = s.route ∧
    (s.placeIwq e).prog = s.prog ∧ (s.placeIwq e).cabin = s.cabin ∧ (s.placeIwq e).cmd = s.cmd ∧
    (s.placeIwq e).notice = s.notice := by
  and_intros <;> rfl

@[simp] theorem State.countMemFault_frame (s : State) :
    (s.countMemFault).pending = s.pending ∧ (s.countMemFault).free = s.free ∧
    (s.countMemFault).port = s.port ∧ (s.countMemFault).loader = s.loader ∧
    (s.countMemFault).time = s.time ∧ (s.countMemFault).cfg = s.cfg ∧
    (s.countMemFault).lines = s.lines ∧ (s.countMemFault).muster = s.muster ∧
    (s.countMemFault).screen = s.screen ∧ (s.countMemFault).station = s.station ∧
    (s.countMemFault).route = s.route ∧ (s.countMemFault).prog = s.prog ∧
    (s.countMemFault).cabin = s.cabin ∧ (s.countMemFault).cmd = s.cmd ∧
    (s.countMemFault).notice = s.notice := by
  and_intros <;> rfl

@[simp] theorem State.startOwnRead_frame (s : State) (k : Fin 2) (a : Addr) (n : Nat) :
    (s.startOwnRead k a n).pending = s.pending ∧ (s.startOwnRead k a n).free = s.free ∧
    (s.startOwnRead k a n).port = s.port ∧ (s.startOwnRead k a n).loader = s.loader ∧
    (s.startOwnRead k a n).time = s.time ∧ (s.startOwnRead k a n).cfg = s.cfg ∧
    (s.startOwnRead k a n).lines = s.lines ∧ (s.startOwnRead k a n).muster = s.muster ∧
    (s.startOwnRead k a n).screen = s.screen ∧ (s.startOwnRead k a n).station = s.station ∧
    (s.startOwnRead k a n).route = s.route ∧ (s.startOwnRead k a n).prog = s.prog ∧
    (s.startOwnRead k a n).cabin = s.cabin ∧ (s.startOwnRead k a n).cmd = s.cmd ∧
    (s.startOwnRead k a n).notice = s.notice := by
  and_intros <;> rfl

@[simp] theorem State.modScreen_frame (s : State) (i : Nat) (f : Screen → Screen) :
    (s.modScreen i f).pending = s.pending ∧ (s.modScreen i f).free = s.free ∧
    (s.modScreen i f).port = s.port ∧ (s.modScreen i f).loader = s.loader ∧
    (s.modScreen i f).time = s.time ∧ (s.modScreen i f).cfg = s.cfg ∧
    (s.modScreen i f).path = s.path ∧ (s.modScreen i f).lines = s.lines ∧
    (s.modScreen i f).muster = s.muster ∧ (s.modScreen i f).station = s.station ∧
    (s.modScreen i f).route = s.route ∧ (s.modScreen i f).prog = s.prog ∧
    (s.modScreen i f).cabin = s.cabin ∧ (s.modScreen i f).cmd = s.cmd ∧
    (s.modScreen i f).notice = s.notice := by
  and_intros <;> rfl

@[simp] theorem State.appendScreens_frame (s : State) (l : List Nat) :
    (s.appendScreens l).pending = s.pending ∧ (s.appendScreens l).free = s.free ∧
    (s.appendScreens l).port = s.port ∧ (s.appendScreens l).loader = s.loader ∧
    (s.appendScreens l).time = s.time ∧ (s.appendScreens l).cfg = s.cfg ∧
    (s.appendScreens l).path = s.path ∧ (s.appendScreens l).lines = s.lines ∧
    (s.appendScreens l).muster = s.muster ∧ (s.appendScreens l).screen = s.screen ∧
    (s.appendScreens l).station = s.station ∧ (s.appendScreens l).prog = s.prog ∧
    (s.appendScreens l).cabin = s.cabin ∧ (s.appendScreens l).cmd = s.cmd ∧
    (s.appendScreens l).notice = s.notice := by
  and_intros <;> rfl

@[simp] theorem State.appendArrows_frame (s : State) :
    (s.appendArrows).pending = s.pending ∧ (s.appendArrows).free = s.free ∧
    (s.appendArrows).port = s.port ∧ (s.appendArrows).loader = s.loader ∧
    (s.appendArrows).time = s.time ∧ (s.appendArrows).cfg = s.cfg ∧
    (s.appendArrows).path = s.path ∧ (s.appendArrows).lines = s.lines ∧
    (s.appendArrows).muster = s.muster ∧ (s.appendArrows).screen = s.screen ∧
    (s.appendArrows).station = s.station ∧ (s.appendArrows).prog = s.prog ∧
    (s.appendArrows).cabin = s.cabin ∧ (s.appendArrows).cmd = s.cmd ∧
    (s.appendArrows).notice = s.notice := by
  and_intros <;> rfl

@[simp] theorem State.placeResult_frame (s : State) (r : CmdResult) :
    (s.placeResult r).pending = s.pending ∧ (s.placeResult r).free = s.free ∧
    (s.placeResult r).port = s.port ∧ (s.placeResult r).loader = s.loader ∧
    (s.placeResult r).time = s.time ∧ (s.placeResult r).cfg = s.cfg ∧
    (s.placeResult r).lines = s.lines ∧ (s.placeResult r).muster = s.muster ∧
    (s.placeResult r).screen = s.screen ∧ (s.placeResult r).station = s.station ∧
    (s.placeResult r).route = s.route ∧ (s.placeResult r).prog = s.prog ∧
    (s.placeResult r).cabin = s.cabin ∧ (s.placeResult r).notice = s.notice := by
  and_intros <;> rfl

@[simp] theorem State.answerPsp_frame (s : State) (a : PspAnswer) :
    (s.answerPsp a).pending = s.pending ∧ (s.answerPsp a).free = s.free ∧
    (s.answerPsp a).loader = s.loader ∧ (s.answerPsp a).time = s.time ∧
    (s.answerPsp a).cfg = s.cfg ∧ (s.answerPsp a).path = s.path ∧ (s.answerPsp a).lines = s.lines ∧
    (s.answerPsp a).muster = s.muster ∧ (s.answerPsp a).screen = s.screen ∧
    (s.answerPsp a).station = s.station ∧ (s.answerPsp a).route = s.route ∧
    (s.answerPsp a).prog = s.prog ∧ (s.answerPsp a).cabin = s.cabin ∧ (s.answerPsp a).cmd = s.cmd ∧
    (s.answerPsp a).notice = s.notice := by
  and_intros <;> rfl

@[simp] theorem State.issueMsp_frame (s : State) (r : MspRequest) :
    (s.issueMsp r).pending = s.pending ∧ (s.issueMsp r).free = s.free ∧
    (s.issueMsp r).loader = s.loader ∧ (s.issueMsp r).time = s.time ∧ (s.issueMsp r).cfg = s.cfg ∧
    (s.issueMsp r).path = s.path ∧ (s.issueMsp r).lines = s.lines ∧
    (s.issueMsp r).muster = s.muster ∧ (s.issueMsp r).screen = s.screen ∧
    (s.issueMsp r).station = s.station ∧ (s.issueMsp r).route = s.route ∧
    (s.issueMsp r).prog = s.prog ∧ (s.issueMsp r).cabin = s.cabin ∧ (s.issueMsp r).cmd = s.cmd ∧
    (s.issueMsp r).notice = s.notice := by
  and_intros <;> rfl

@[simp] theorem State.evalCoveredAt_frame (s : State) (i : Nat) :
    (s.evalCoveredAt i).pending = s.pending ∧ (s.evalCoveredAt i).free = s.free ∧
    (s.evalCoveredAt i).port = s.port ∧ (s.evalCoveredAt i).loader = s.loader ∧
    (s.evalCoveredAt i).time = s.time ∧ (s.evalCoveredAt i).cfg = s.cfg ∧
    (s.evalCoveredAt i).path = s.path ∧ (s.evalCoveredAt i).lines = s.lines ∧
    (s.evalCoveredAt i).muster = s.muster ∧ (s.evalCoveredAt i).station = s.station ∧
    (s.evalCoveredAt i).route = s.route ∧ (s.evalCoveredAt i).prog = s.prog ∧
    (s.evalCoveredAt i).cabin = s.cabin ∧ (s.evalCoveredAt i).cmd = s.cmd ∧
    (s.evalCoveredAt i).notice = s.notice := by
  and_intros <;> rfl

@[simp] theorem State.uncoverAll_frame (s : State) :
    (s.uncoverAll).pending = s.pending ∧ (s.uncoverAll).free = s.free ∧
    (s.uncoverAll).port = s.port ∧ (s.uncoverAll).loader = s.loader ∧
    (s.uncoverAll).time = s.time ∧ (s.uncoverAll).cfg = s.cfg ∧
    (s.uncoverAll).path = s.path ∧ (s.uncoverAll).lines = s.lines ∧
    (s.uncoverAll).muster = s.muster ∧ (s.uncoverAll).station = s.station ∧
    (s.uncoverAll).route = s.route ∧ (s.uncoverAll).prog = s.prog ∧
    (s.uncoverAll).cabin = s.cabin ∧ (s.uncoverAll).cmd = s.cmd ∧
    (s.uncoverAll).notice = s.notice := by
  and_intros <;> rfl

@[simp] theorem State.clearReport_frame (s : State) :
    (s.clearReport).pending = s.pending ∧ (s.clearReport).free = s.free ∧
    (s.clearReport).port = s.port ∧ (s.clearReport).loader = s.loader ∧
    (s.clearReport).time = s.time ∧ (s.clearReport).cfg = s.cfg ∧ (s.clearReport).path = s.path ∧
    (s.clearReport).lines = s.lines ∧ (s.clearReport).muster = s.muster ∧
    (s.clearReport).station = s.station ∧ (s.clearReport).route = s.route ∧
    (s.clearReport).prog = s.prog ∧ (s.clearReport).cabin = s.cabin ∧ (s.clearReport).cmd = s.cmd ∧
    (s.clearReport).notice = s.notice := by
  and_intros <;> rfl

@[simp] theorem State.driveShown_frame (s : State) :
    (s.driveShown).pending = s.pending ∧ (s.driveShown).free = s.free ∧
    (s.driveShown).port = s.port ∧ (s.driveShown).loader = s.loader ∧
    (s.driveShown).time = s.time ∧ (s.driveShown).cfg = s.cfg ∧ (s.driveShown).path = s.path ∧
    (s.driveShown).lines = s.lines ∧ (s.driveShown).screen = s.screen ∧
    (s.driveShown).station = s.station ∧ (s.driveShown).route = s.route ∧
    (s.driveShown).prog = s.prog ∧ (s.driveShown).cabin = s.cabin ∧ (s.driveShown).cmd = s.cmd ∧
    (s.driveShown).notice = s.notice := by
  and_intros <;> rfl

@[simp] theorem State.markNotified_frame (s : State) :
    (s.markNotified).pending = s.pending ∧ (s.markNotified).free = s.free ∧
    (s.markNotified).port = s.port ∧ (s.markNotified).loader = s.loader ∧
    (s.markNotified).time = s.time ∧ (s.markNotified).cfg = s.cfg ∧
    (s.markNotified).path = s.path ∧ (s.markNotified).lines = s.lines ∧
    (s.markNotified).muster = s.muster ∧ (s.markNotified).screen = s.screen ∧
    (s.markNotified).station = s.station ∧ (s.markNotified).route = s.route ∧
    (s.markNotified).prog = s.prog ∧ (s.markNotified).cmd = s.cmd ∧
    (s.markNotified).notice = s.notice := by
  and_intros <;> rfl

@[simp] theorem State.notifyCabins_frame (s : State) :
    (s.notifyCabins).pending = s.pending ∧ (s.notifyCabins).free = s.free ∧
    (s.notifyCabins).port = s.port ∧ (s.notifyCabins).loader = s.loader ∧
    (s.notifyCabins).time = s.time ∧ (s.notifyCabins).cfg = s.cfg ∧
    (s.notifyCabins).path = s.path ∧ (s.notifyCabins).lines = s.lines ∧
    (s.notifyCabins).muster = s.muster ∧ (s.notifyCabins).screen = s.screen ∧
    (s.notifyCabins).station = s.station ∧ (s.notifyCabins).route = s.route ∧
    (s.notifyCabins).prog = s.prog ∧ (s.notifyCabins).cmd = s.cmd := by
  and_intros <;> rfl

@[simp] theorem State.shutWindow_frame (s : State) :
    (s.shutWindow).pending = s.pending ∧ (s.shutWindow).free = s.free ∧
    (s.shutWindow).port = s.port ∧ (s.shutWindow).loader = s.loader ∧
    (s.shutWindow).time = s.time ∧ (s.shutWindow).cfg = s.cfg ∧ (s.shutWindow).path = s.path ∧
    (s.shutWindow).lines = s.lines ∧ (s.shutWindow).muster = s.muster ∧
    (s.shutWindow).screen = s.screen ∧ (s.shutWindow).station = s.station ∧
    (s.shutWindow).prog = s.prog ∧ (s.shutWindow).cabin = s.cabin ∧
    (s.shutWindow).notice = s.notice := by
  and_intros <;> rfl

@[simp] theorem State.closeWindowWith_frame (s : State) (c : ClosureCause) :
    (s.closeWindowWith c).pending = s.pending ∧ (s.closeWindowWith c).free = s.free ∧
    (s.closeWindowWith c).port = s.port ∧ (s.closeWindowWith c).loader = s.loader ∧
    (s.closeWindowWith c).time = s.time ∧ (s.closeWindowWith c).cfg = s.cfg ∧
    (s.closeWindowWith c).path = s.path ∧ (s.closeWindowWith c).lines = s.lines ∧
    (s.closeWindowWith c).muster = s.muster ∧ (s.closeWindowWith c).screen = s.screen ∧
    (s.closeWindowWith c).station = s.station ∧ (s.closeWindowWith c).prog = s.prog ∧
    (s.closeWindowWith c).cabin = s.cabin := by
  and_intros <;> rfl

@[simp] theorem State.armReport_frame (s : State) :
    (s.armReport).pending = s.pending ∧ (s.armReport).free = s.free ∧ (s.armReport).port = s.port ∧
    (s.armReport).loader = s.loader ∧ (s.armReport).time = s.time ∧ (s.armReport).cfg = s.cfg ∧
    (s.armReport).path = s.path ∧ (s.armReport).lines = s.lines ∧ (s.armReport).muster = s.muster ∧
    (s.armReport).station = s.station ∧ (s.armReport).route = s.route ∧
    (s.armReport).prog = s.prog ∧ (s.armReport).cabin = s.cabin ∧ (s.armReport).cmd = s.cmd ∧
    (s.armReport).notice = s.notice := by
  and_intros <;> rfl

@[simp] theorem State.countInvalid_frame (s : State) (n : Nat) :
    (s.countInvalid n).pending = s.pending ∧ (s.countInvalid n).free = s.free ∧
    (s.countInvalid n).port = s.port ∧ (s.countInvalid n).loader = s.loader ∧
    (s.countInvalid n).time = s.time ∧ (s.countInvalid n).cfg = s.cfg ∧
    (s.countInvalid n).path = s.path ∧ (s.countInvalid n).lines = s.lines ∧
    (s.countInvalid n).muster = s.muster ∧ (s.countInvalid n).screen = s.screen ∧
    (s.countInvalid n).station = s.station ∧ (s.countInvalid n).prog = s.prog ∧
    (s.countInvalid n).cabin = s.cabin ∧ (s.countInvalid n).cmd = s.cmd ∧
    (s.countInvalid n).notice = s.notice := by
  and_intros <;> rfl

@[simp] theorem State.computeSelections_frame (s : State) :
    (s.computeSelections).pending = s.pending ∧ (s.computeSelections).free = s.free ∧
    (s.computeSelections).port = s.port ∧ (s.computeSelections).loader = s.loader ∧
    (s.computeSelections).time = s.time ∧ (s.computeSelections).cfg = s.cfg ∧
    (s.computeSelections).path = s.path ∧ (s.computeSelections).lines = s.lines ∧
    (s.computeSelections).muster = s.muster ∧ (s.computeSelections).screen = s.screen ∧
    (s.computeSelections).station = s.station ∧ (s.computeSelections).cabin = s.cabin ∧
    (s.computeSelections).cmd = s.cmd ∧ (s.computeSelections).notice = s.notice := by
  and_intros <;> rfl

@[simp] theorem State.touchScan_frame (s : State) (t : ScanTable) (k : Nat) (en : Enables) :
    (s.touchScan t k en).pending = s.pending ∧ (s.touchScan t k en).free = s.free ∧
    (s.touchScan t k en).port = s.port ∧ (s.touchScan t k en).loader = s.loader ∧
    (s.touchScan t k en).time = s.time ∧ (s.touchScan t k en).cfg = s.cfg ∧
    (s.touchScan t k en).path = s.path ∧ (s.touchScan t k en).lines = s.lines ∧
    (s.touchScan t k en).muster = s.muster ∧ (s.touchScan t k en).screen = s.screen ∧
    (s.touchScan t k en).station = s.station ∧ (s.touchScan t k en).route = s.route ∧
    (s.touchScan t k en).prog = s.prog ∧ (s.touchScan t k en).cabin = s.cabin ∧
    (s.touchScan t k en).notice = s.notice := by
  and_intros <;> rfl

@[simp] theorem State.deliverRing_frame (s : State) (w : WriteLine) :
    (s.deliverRing w).pending = s.pending ∧ (s.deliverRing w).free = s.free ∧
    (s.deliverRing w).port = s.port ∧ (s.deliverRing w).loader = s.loader ∧
    (s.deliverRing w).time = s.time ∧ (s.deliverRing w).cfg = s.cfg ∧
    (s.deliverRing w).path = s.path ∧ (s.deliverRing w).lines = s.lines ∧
    (s.deliverRing w).muster = s.muster ∧ (s.deliverRing w).screen = s.screen ∧
    (s.deliverRing w).station = s.station ∧ (s.deliverRing w).route = s.route ∧
    (s.deliverRing w).prog = s.prog ∧ (s.deliverRing w).cabin = s.cabin ∧
    (s.deliverRing w).cmd = s.cmd := by
  and_intros <;> rfl

@[simp] theorem State.placeStatus_frame (s : State) (i : Fin 7) :
    (s.placeStatus i).pending = s.pending ∧ (s.placeStatus i).free = s.free ∧
    (s.placeStatus i).port = s.port ∧ (s.placeStatus i).loader = s.loader ∧
    (s.placeStatus i).time = s.time ∧ (s.placeStatus i).cfg = s.cfg ∧
    (s.placeStatus i).lines = s.lines ∧ (s.placeStatus i).muster = s.muster ∧
    (s.placeStatus i).screen = s.screen ∧ (s.placeStatus i).station = s.station ∧
    (s.placeStatus i).route = s.route ∧ (s.placeStatus i).prog = s.prog ∧
    (s.placeStatus i).cabin = s.cabin ∧ (s.placeStatus i).cmd = s.cmd := by
  and_intros <;> rfl

@[simp] theorem State.tailTurn_frame (s : State) :
    (s.tailTurn).pending = s.pending ∧ (s.tailTurn).free = s.free ∧ (s.tailTurn).port = s.port ∧
    (s.tailTurn).loader = s.loader ∧ (s.tailTurn).time = s.time ∧ (s.tailTurn).cfg = s.cfg ∧
    (s.tailTurn).lines = s.lines ∧ (s.tailTurn).muster = s.muster ∧
    (s.tailTurn).screen = s.screen ∧ (s.tailTurn).station = s.station ∧
    (s.tailTurn).route = s.route ∧ (s.tailTurn).prog = s.prog ∧ (s.tailTurn).cabin = s.cabin ∧
    (s.tailTurn).cmd = s.cmd := by
  and_intros <;> rfl

@[simp] theorem State.enqueueWrite_frame (s : State) (l : List (Addr × WriteLine)) :
    (s.enqueueWrite l).pending = s.pending ∧ (s.enqueueWrite l).free = s.free ∧
    (s.enqueueWrite l).port = s.port ∧ (s.enqueueWrite l).loader = s.loader ∧
    (s.enqueueWrite l).time = s.time ∧ (s.enqueueWrite l).cfg = s.cfg ∧
    (s.enqueueWrite l).lines = s.lines ∧ (s.enqueueWrite l).muster = s.muster ∧
    (s.enqueueWrite l).screen = s.screen ∧ (s.enqueueWrite l).station = s.station ∧
    (s.enqueueWrite l).route = s.route ∧ (s.enqueueWrite l).prog = s.prog ∧
    (s.enqueueWrite l).cabin = s.cabin ∧ (s.enqueueWrite l).cmd = s.cmd ∧
    (s.enqueueWrite l).notice = s.notice := by
  and_intros <;> rfl

@[simp] theorem State.setTracker_frame (s : State) (i : Fin 8) (t : Tracker) :
    (s.setTracker i t).pending = s.pending ∧ (s.setTracker i t).free = s.free ∧
    (s.setTracker i t).port = s.port ∧ (s.setTracker i t).loader = s.loader ∧
    (s.setTracker i t).time = s.time ∧ (s.setTracker i t).cfg = s.cfg ∧
    (s.setTracker i t).lines = s.lines ∧ (s.setTracker i t).muster = s.muster ∧
    (s.setTracker i t).screen = s.screen ∧ (s.setTracker i t).station = s.station ∧
    (s.setTracker i t).route = s.route ∧ (s.setTracker i t).prog = s.prog ∧
    (s.setTracker i t).cabin = s.cabin ∧ (s.setTracker i t).cmd = s.cmd ∧
    (s.setTracker i t).notice = s.notice := by
  and_intros <;> rfl

@[simp] theorem State.rawChange_frame (s : State) (line : InputLine) (b : Bool) :
    (s.rawChange line b).pending = s.pending ∧ (s.rawChange line b).free = s.free ∧
    (s.rawChange line b).port = s.port ∧ (s.rawChange line b).loader = s.loader ∧
    (s.rawChange line b).time = s.time ∧ (s.rawChange line b).cfg = s.cfg ∧
    (s.rawChange line b).path = s.path ∧ (s.rawChange line b).muster = s.muster ∧
    (s.rawChange line b).screen = s.screen ∧ (s.rawChange line b).station = s.station ∧
    (s.rawChange line b).route = s.route ∧ (s.rawChange line b).prog = s.prog ∧
    (s.rawChange line b).cabin = s.cabin ∧ (s.rawChange line b).cmd = s.cmd ∧
    (s.rawChange line b).notice = s.notice := by
  and_intros <;> rfl

@[simp] theorem State.startScanRead_frame (s : State) (w : Window) (t : ScanTable) (n r : Nat) :
    (s.startScanRead w t n r).pending = s.pending ∧ (s.startScanRead w t n r).free = s.free ∧
    (s.startScanRead w t n r).port = s.port ∧ (s.startScanRead w t n r).loader = s.loader ∧
    (s.startScanRead w t n r).time = s.time ∧ (s.startScanRead w t n r).cfg = s.cfg ∧
    (s.startScanRead w t n r).lines = s.lines ∧ (s.startScanRead w t n r).muster = s.muster ∧
    (s.startScanRead w t n r).screen = s.screen ∧ (s.startScanRead w t n r).station = s.station ∧
    (s.startScanRead w t n r).route = s.route ∧ (s.startScanRead w t n r).prog = s.prog ∧
    (s.startScanRead w t n r).cabin = s.cabin ∧ (s.startScanRead w t n r).notice = s.notice := by
  and_intros <;> rfl

@[simp] theorem State.endCommand_frame (s : State) (r : CmdResult) :
    (s.endCommand r).pending = s.pending ∧ (s.endCommand r).free = s.free ∧
    (s.endCommand r).port = s.port ∧ (s.endCommand r).loader = s.loader ∧
    (s.endCommand r).time = s.time ∧ (s.endCommand r).cfg = s.cfg ∧
    (s.endCommand r).lines = s.lines ∧ (s.endCommand r).muster = s.muster ∧
    (s.endCommand r).screen = s.screen ∧ (s.endCommand r).station = s.station ∧
    (s.endCommand r).route = s.route ∧ (s.endCommand r).prog = s.prog ∧
    (s.endCommand r).cabin = s.cabin ∧ (s.endCommand r).notice = s.notice := by
  unfold State.endCommand
  repeat' split
  all_goals simp

@[simp] theorem State.coverageEvent_frame (s : State) :
    (s.coverageEvent).pending = s.pending ∧ (s.coverageEvent).free = s.free ∧
    (s.coverageEvent).port = s.port ∧ (s.coverageEvent).loader = s.loader ∧
    (s.coverageEvent).time = s.time ∧ (s.coverageEvent).cfg = s.cfg ∧
    (s.coverageEvent).path = s.path ∧ (s.coverageEvent).lines = s.lines ∧
    (s.coverageEvent).station = s.station ∧ (s.coverageEvent).route = s.route ∧
    (s.coverageEvent).prog = s.prog ∧ (s.coverageEvent).cabin = s.cabin ∧
    (s.coverageEvent).cmd = s.cmd := by
  simp [State.coverageEvent]

@[simp] theorem State.frameStart_frame (s : State) (i : Nat) (sc : Screen) :
    (s.frameStart i sc).pending = s.pending ∧ (s.frameStart i sc).free = s.free ∧
    (s.frameStart i sc).port = s.port ∧ (s.frameStart i sc).loader = s.loader ∧
    (s.frameStart i sc).time = s.time ∧ (s.frameStart i sc).cfg = s.cfg ∧
    (s.frameStart i sc).path = s.path ∧ (s.frameStart i sc).lines = s.lines ∧
    (s.frameStart i sc).station = s.station ∧ (s.frameStart i sc).route = s.route ∧
    (s.frameStart i sc).prog = s.prog ∧ (s.frameStart i sc).cabin = s.cabin ∧
    (s.frameStart i sc).cmd = s.cmd := by
  simp [State.frameStart]

@[simp] theorem State.resolveLine_frame (s : State) (tag : Tag) (a : Addr) :
    ((s.resolveLine tag a).1).pending = s.pending ∧ ((s.resolveLine tag a).1).free = s.free ∧
    ((s.resolveLine tag a).1).port = s.port ∧ ((s.resolveLine tag a).1).loader = s.loader ∧
    ((s.resolveLine tag a).1).time = s.time ∧ ((s.resolveLine tag a).1).cfg = s.cfg ∧
    ((s.resolveLine tag a).1).path = s.path ∧ ((s.resolveLine tag a).1).lines = s.lines ∧
    ((s.resolveLine tag a).1).station = s.station ∧ ((s.resolveLine tag a).1).route = s.route ∧
    ((s.resolveLine tag a).1).prog = s.prog ∧ ((s.resolveLine tag a).1).cabin = s.cabin ∧
    ((s.resolveLine tag a).1).cmd = s.cmd := by
  unfold State.resolveLine
  dsimp only
  repeat' split
  all_goals simp

@[simp] theorem State.sourceFault_frame (s : State) (tag : Tag) (a : Addr) :
    (s.sourceFault tag a).pending = s.pending ∧ (s.sourceFault tag a).free = s.free ∧
    (s.sourceFault tag a).port = s.port ∧ (s.sourceFault tag a).loader = s.loader ∧
    (s.sourceFault tag a).time = s.time ∧ (s.sourceFault tag a).cfg = s.cfg ∧
    (s.sourceFault tag a).path = s.path ∧ (s.sourceFault tag a).lines = s.lines ∧
    (s.sourceFault tag a).muster = s.muster ∧ (s.sourceFault tag a).station = s.station ∧
    (s.sourceFault tag a).route = s.route ∧ (s.sourceFault tag a).prog = s.prog ∧
    (s.sourceFault tag a).cabin = s.cabin ∧ (s.sourceFault tag a).cmd = s.cmd := by
  unfold State.sourceFault
  repeat' split
  all_goals simp

@[simp] theorem State.darkExpiry_frame (s : State) (i : Nat) :
    (s.darkExpiry i).pending = s.pending ∧ (s.darkExpiry i).free = s.free ∧
    (s.darkExpiry i).port = s.port ∧ (s.darkExpiry i).loader = s.loader ∧
    (s.darkExpiry i).time = s.time ∧ (s.darkExpiry i).cfg = s.cfg ∧
    (s.darkExpiry i).path = s.path ∧ (s.darkExpiry i).lines = s.lines ∧
    (s.darkExpiry i).station = s.station ∧ (s.darkExpiry i).route = s.route ∧
    (s.darkExpiry i).prog = s.prog ∧ (s.darkExpiry i).cabin = s.cabin ∧
    (s.darkExpiry i).cmd = s.cmd := by
  unfold State.darkExpiry
  dsimp only
  repeat' split
  all_goals simp

@[simp] theorem State.countDrop_frame (s : State) (r : DropReason) (a : Addr) :
    (s.countDrop r a).pending = s.pending ∧ (s.countDrop r a).free = s.free ∧
    (s.countDrop r a).port = s.port ∧ (s.countDrop r a).loader = s.loader ∧
    (s.countDrop r a).time = s.time ∧ (s.countDrop r a).cfg = s.cfg ∧
    (s.countDrop r a).path = s.path ∧ (s.countDrop r a).lines = s.lines ∧
    (s.countDrop r a).muster = s.muster ∧ (s.countDrop r a).screen = s.screen ∧
    (s.countDrop r a).station = s.station ∧ (s.countDrop r a).route = s.route ∧
    (s.countDrop r a).prog = s.prog ∧ (s.countDrop r a).cabin = s.cabin := by
  unfold State.countDrop
  dsimp only
  repeat' split
  all_goals simp

@[simp] theorem State.cmdOpenWindow_frame (s : State) :
    (s.cmdOpenWindow).pending = s.pending ∧ (s.cmdOpenWindow).free = s.free ∧
    (s.cmdOpenWindow).port = s.port ∧ (s.cmdOpenWindow).loader = s.loader ∧
    (s.cmdOpenWindow).time = s.time ∧ (s.cmdOpenWindow).cfg = s.cfg ∧
    (s.cmdOpenWindow).lines = s.lines ∧ (s.cmdOpenWindow).muster = s.muster ∧
    (s.cmdOpenWindow).screen = s.screen ∧ (s.cmdOpenWindow).station = s.station ∧
    (s.cmdOpenWindow).route = s.route ∧ (s.cmdOpenWindow).prog = s.prog ∧
    (s.cmdOpenWindow).cabin = s.cabin ∧ (s.cmdOpenWindow).notice = s.notice := by
  unfold State.cmdOpenWindow
  dsimp only
  repeat' split
  all_goals simp

@[simp] theorem State.cmdCloseWindow_frame (s : State) :
    (s.cmdCloseWindow).pending = s.pending ∧ (s.cmdCloseWindow).free = s.free ∧
    (s.cmdCloseWindow).port = s.port ∧ (s.cmdCloseWindow).loader = s.loader ∧
    (s.cmdCloseWindow).time = s.time ∧ (s.cmdCloseWindow).cfg = s.cfg ∧
    (s.cmdCloseWindow).lines = s.lines ∧ (s.cmdCloseWindow).muster = s.muster ∧
    (s.cmdCloseWindow).screen = s.screen ∧ (s.cmdCloseWindow).station = s.station ∧
    (s.cmdCloseWindow).prog = s.prog ∧ (s.cmdCloseWindow).cabin = s.cabin := by
  unfold State.cmdCloseWindow
  repeat' split
  all_goals simp

@[simp] theorem State.maintFall_frame (s : State) :
    (s.maintFall).pending = s.pending ∧ (s.maintFall).free = s.free ∧ (s.maintFall).port = s.port ∧
    (s.maintFall).loader = s.loader ∧ (s.maintFall).time = s.time ∧ (s.maintFall).cfg = s.cfg ∧
    (s.maintFall).path = s.path ∧ (s.maintFall).lines = s.lines ∧ (s.maintFall).muster = s.muster ∧
    (s.maintFall).screen = s.screen ∧ (s.maintFall).station = s.station ∧
    (s.maintFall).prog = s.prog ∧ (s.maintFall).cabin = s.cabin := by
  unfold State.maintFall
  repeat' split
  all_goals simp

@[simp] theorem State.maintExpiry_frame (s : State) :
    (s.maintExpiry).pending = s.pending ∧ (s.maintExpiry).free = s.free ∧
    (s.maintExpiry).port = s.port ∧ (s.maintExpiry).loader = s.loader ∧
    (s.maintExpiry).time = s.time ∧ (s.maintExpiry).cfg = s.cfg ∧ (s.maintExpiry).path = s.path ∧
    (s.maintExpiry).lines = s.lines ∧ (s.maintExpiry).muster = s.muster ∧
    (s.maintExpiry).screen = s.screen ∧ (s.maintExpiry).station = s.station ∧
    (s.maintExpiry).prog = s.prog ∧ (s.maintExpiry).cabin = s.cabin := by
  unfold State.maintExpiry
  repeat' split
  all_goals simp

@[simp] theorem State.takeHome_frame (s : State) (i : Nat) (v : Byte) :
    (s.takeHome i v).pending = s.pending ∧ (s.takeHome i v).free = s.free ∧
    (s.takeHome i v).port = s.port ∧ (s.takeHome i v).loader = s.loader ∧
    (s.takeHome i v).time = s.time ∧ (s.takeHome i v).cfg = s.cfg ∧
    (s.takeHome i v).path = s.path ∧ (s.takeHome i v).lines = s.lines ∧
    (s.takeHome i v).muster = s.muster ∧ (s.takeHome i v).screen = s.screen ∧
    (s.takeHome i v).station = s.station ∧ (s.takeHome i v).route = s.route ∧
    (s.takeHome i v).prog = s.prog ∧ (s.takeHome i v).cmd = s.cmd ∧
    (s.takeHome i v).notice = s.notice := by
  unfold State.takeHome
  dsimp only
  repeat' split
  all_goals simp

@[simp] theorem State.cabinWritten_frame (s : State) (i o : Nat) (w : WriteLine) (q : Nat) :
    (s.cabinWritten i o w q).pending = s.pending ∧ (s.cabinWritten i o w q).free = s.free ∧
    (s.cabinWritten i o w q).port = s.port ∧ (s.cabinWritten i o w q).loader = s.loader ∧
    (s.cabinWritten i o w q).time = s.time ∧ (s.cabinWritten i o w q).cfg = s.cfg ∧
    (s.cabinWritten i o w q).path = s.path ∧ (s.cabinWritten i o w q).lines = s.lines ∧
    (s.cabinWritten i o w q).muster = s.muster ∧ (s.cabinWritten i o w q).screen = s.screen ∧
    (s.cabinWritten i o w q).station = s.station ∧ (s.cabinWritten i o w q).route = s.route ∧
    (s.cabinWritten i o w q).prog = s.prog ∧ (s.cabinWritten i o w q).cmd = s.cmd ∧
    (s.cabinWritten i o w q).notice = s.notice := by
  unfold State.cabinWritten
  dsimp only
  repeat' split
  all_goals simp

@[simp] theorem State.cabinRecord_frame (s : State) (i o : Nat) (w : WriteLine) (q : Nat) :
    (s.cabinRecord i o w q).pending = s.pending ∧ (s.cabinRecord i o w q).free = s.free ∧
    (s.cabinRecord i o w q).port = s.port ∧ (s.cabinRecord i o w q).loader = s.loader ∧
    (s.cabinRecord i o w q).time = s.time ∧ (s.cabinRecord i o w q).cfg = s.cfg ∧
    (s.cabinRecord i o w q).path = s.path ∧ (s.cabinRecord i o w q).lines = s.lines ∧
    (s.cabinRecord i o w q).muster = s.muster ∧ (s.cabinRecord i o w q).screen = s.screen ∧
    (s.cabinRecord i o w q).station = s.station ∧ (s.cabinRecord i o w q).route = s.route ∧
    (s.cabinRecord i o w q).prog = s.prog ∧ (s.cabinRecord i o w q).cmd = s.cmd ∧
    (s.cabinRecord i o w q).notice = s.notice := by
  unfold State.cabinRecord
  repeat' split
  all_goals simp

@[simp] theorem State.deliverCabin_frame (s : State) (k : Nat) (w : WriteLine) (q : Nat) :
    (s.deliverCabin k w q).pending = s.pending ∧ (s.deliverCabin k w q).free = s.free ∧
    (s.deliverCabin k w q).port = s.port ∧ (s.deliverCabin k w q).loader = s.loader ∧
    (s.deliverCabin k w q).time = s.time ∧ (s.deliverCabin k w q).cfg = s.cfg ∧
    (s.deliverCabin k w q).path = s.path ∧ (s.deliverCabin k w q).lines = s.lines ∧
    (s.deliverCabin k w q).muster = s.muster ∧ (s.deliverCabin k w q).screen = s.screen ∧
    (s.deliverCabin k w q).station = s.station ∧ (s.deliverCabin k w q).route = s.route ∧
    (s.deliverCabin k w q).prog = s.prog ∧ (s.deliverCabin k w q).cmd = s.cmd := by
  simp [State.deliverCabin]

@[simp] theorem State.refreshCabin_frame (s : State) (i q : Nat) (c : Cabin) :
    (s.refreshCabin i q c).pending = s.pending ∧ (s.refreshCabin i q c).free = s.free ∧
    (s.refreshCabin i q c).port = s.port ∧ (s.refreshCabin i q c).loader = s.loader ∧
    (s.refreshCabin i q c).time = s.time ∧ (s.refreshCabin i q c).cfg = s.cfg ∧
    (s.refreshCabin i q c).path = s.path ∧ (s.refreshCabin i q c).lines = s.lines ∧
    (s.refreshCabin i q c).muster = s.muster ∧ (s.refreshCabin i q c).screen = s.screen ∧
    (s.refreshCabin i q c).station = s.station ∧ (s.refreshCabin i q c).route = s.route ∧
    (s.refreshCabin i q c).prog = s.prog ∧ (s.refreshCabin i q c).cmd = s.cmd := by
  unfold State.refreshCabin
  dsimp only
  repeat' split
  all_goals simp

@[simp] theorem State.observeRefresh_frame (s : State) (i q : Nat) :
    (s.observeRefresh i q).pending = s.pending ∧ (s.observeRefresh i q).free = s.free ∧
    (s.observeRefresh i q).port = s.port ∧ (s.observeRefresh i q).loader = s.loader ∧
    (s.observeRefresh i q).time = s.time ∧ (s.observeRefresh i q).cfg = s.cfg ∧
    (s.observeRefresh i q).path = s.path ∧ (s.observeRefresh i q).lines = s.lines ∧
    (s.observeRefresh i q).muster = s.muster ∧ (s.observeRefresh i q).screen = s.screen ∧
    (s.observeRefresh i q).station = s.station ∧ (s.observeRefresh i q).route = s.route ∧
    (s.observeRefresh i q).prog = s.prog ∧ (s.observeRefresh i q).cmd = s.cmd := by
  unfold State.observeRefresh
  repeat' split
  all_goals simp

@[simp] theorem State.observeLine_frame (s : State) (k q : Nat) :
    (s.observeLine k q).pending = s.pending ∧ (s.observeLine k q).free = s.free ∧
    (s.observeLine k q).port = s.port ∧ (s.observeLine k q).loader = s.loader ∧
    (s.observeLine k q).time = s.time ∧ (s.observeLine k q).cfg = s.cfg ∧
    (s.observeLine k q).path = s.path ∧ (s.observeLine k q).lines = s.lines ∧
    (s.observeLine k q).muster = s.muster ∧ (s.observeLine k q).screen = s.screen ∧
    (s.observeLine k q).station = s.station ∧ (s.observeLine k q).route = s.route ∧
    (s.observeLine k q).prog = s.prog ∧ (s.observeLine k q).cmd = s.cmd := by
  simp [State.observeLine]

@[simp] theorem State.stationCauses_frame (s : State) (l : List StationIx) :
    (s.stationCauses l).pending = s.pending ∧ (s.stationCauses l).free = s.free ∧
    (s.stationCauses l).port = s.port ∧ (s.stationCauses l).loader = s.loader ∧
    (s.stationCauses l).time = s.time ∧ (s.stationCauses l).cfg = s.cfg ∧
    (s.stationCauses l).path = s.path ∧ (s.stationCauses l).lines = s.lines ∧
    (s.stationCauses l).muster = s.muster ∧ (s.stationCauses l).screen = s.screen ∧
    (s.stationCauses l).station = s.station ∧ (s.stationCauses l).route = s.route ∧
    (s.stationCauses l).prog = s.prog ∧ (s.stationCauses l).cmd = s.cmd := by
  unfold State.stationCauses
  repeat' split
  all_goals simp

@[simp] theorem State.stationDone_frame (s : State) (b : StationTable) (e : Vector Station 12) :
    (s.stationDone b e).pending = s.pending ∧ (s.stationDone b e).free = s.free ∧
    (s.stationDone b e).port = s.port ∧ (s.stationDone b e).loader = s.loader ∧
    (s.stationDone b e).time = s.time ∧ (s.stationDone b e).cfg = s.cfg ∧
    (s.stationDone b e).lines = s.lines ∧ (s.stationDone b e).muster = s.muster ∧
    (s.stationDone b e).screen = s.screen ∧ (s.stationDone b e).prog = s.prog := by
  simp [State.stationDone]

@[simp] theorem State.cmdStationClose_frame (s : State) (n : Nat) :
    (s.cmdStationClose n).pending = s.pending ∧ (s.cmdStationClose n).free = s.free ∧
    (s.cmdStationClose n).port = s.port ∧ (s.cmdStationClose n).loader = s.loader ∧
    (s.cmdStationClose n).time = s.time ∧ (s.cmdStationClose n).cfg = s.cfg ∧
    (s.cmdStationClose n).lines = s.lines ∧ (s.cmdStationClose n).muster = s.muster ∧
    (s.cmdStationClose n).screen = s.screen ∧ (s.cmdStationClose n).prog = s.prog := by
  simp only [State.cmdStationClose, State.withStation]
  repeat' split
  all_goals simp

@[simp] theorem State.cmdStationOpen_frame (s : State) (n : Nat) :
    (s.cmdStationOpen n).pending = s.pending ∧ (s.cmdStationOpen n).free = s.free ∧
    (s.cmdStationOpen n).port = s.port ∧ (s.cmdStationOpen n).loader = s.loader ∧
    (s.cmdStationOpen n).time = s.time ∧ (s.cmdStationOpen n).cfg = s.cfg ∧
    (s.cmdStationOpen n).lines = s.lines ∧ (s.cmdStationOpen n).muster = s.muster ∧
    (s.cmdStationOpen n).screen = s.screen ∧ (s.cmdStationOpen n).prog = s.prog := by
  simp only [State.cmdStationOpen, State.withStation]
  repeat' split
  all_goals simp

@[simp] theorem State.cmdSetAlternate_frame (s : State) (n a : Nat) :
    (s.cmdSetAlternate n a).pending = s.pending ∧ (s.cmdSetAlternate n a).free = s.free ∧
    (s.cmdSetAlternate n a).port = s.port ∧ (s.cmdSetAlternate n a).loader = s.loader ∧
    (s.cmdSetAlternate n a).time = s.time ∧ (s.cmdSetAlternate n a).cfg = s.cfg ∧
    (s.cmdSetAlternate n a).lines = s.lines ∧ (s.cmdSetAlternate n a).muster = s.muster ∧
    (s.cmdSetAlternate n a).screen = s.screen ∧ (s.cmdSetAlternate n a).prog = s.prog := by
  simp only [State.cmdSetAlternate, State.withStation]
  repeat' split
  all_goals simp

@[simp] theorem State.cmdPublishPage_frame (s : State) (a b c : Nat) :
    (s.cmdPublishPage a b c).pending = s.pending ∧ (s.cmdPublishPage a b c).free = s.free ∧
    (s.cmdPublishPage a b c).port = s.port ∧ (s.cmdPublishPage a b c).loader = s.loader ∧
    (s.cmdPublishPage a b c).time = s.time ∧ (s.cmdPublishPage a b c).cfg = s.cfg ∧
    (s.cmdPublishPage a b c).lines = s.lines ∧ (s.cmdPublishPage a b c).muster = s.muster ∧
    (s.cmdPublishPage a b c).screen = s.screen ∧ (s.cmdPublishPage a b c).route = s.route ∧
    (s.cmdPublishPage a b c).prog = s.prog ∧ (s.cmdPublishPage a b c).cabin = s.cabin ∧
    (s.cmdPublishPage a b c).notice = s.notice := by
  unfold State.cmdPublishPage
  dsimp only
  repeat' split
  all_goals simp

@[simp] theorem State.changeMuster_frame (s : State) (m : MusterUnit) (o : Origin) :
    (s.changeMuster m o).pending = s.pending ∧ (s.changeMuster m o).port = s.port ∧
    (s.changeMuster m o).loader = s.loader ∧ (s.changeMuster m o).time = s.time ∧
    (s.changeMuster m o).cfg = s.cfg ∧ (s.changeMuster m o).path = s.path ∧
    (s.changeMuster m o).lines = s.lines ∧ (s.changeMuster m o).station = s.station ∧
    (s.changeMuster m o).prog = s.prog := by
  unfold State.changeMuster
  dsimp only
  repeat' split
  all_goals simp

@[simp] theorem State.orderMuster_frame (s : State) (c : MusterCause) :
    (s.orderMuster c).pending = s.pending ∧ (s.orderMuster c).port = s.port ∧
    (s.orderMuster c).loader = s.loader ∧ (s.orderMuster c).time = s.time ∧
    (s.orderMuster c).cfg = s.cfg ∧ (s.orderMuster c).path = s.path ∧
    (s.orderMuster c).lines = s.lines ∧ (s.orderMuster c).station = s.station ∧
    (s.orderMuster c).prog = s.prog := by
  unfold State.orderMuster
  repeat' split
  all_goals simp

@[simp] theorem State.endMuster_frame (s : State) (o : CmdOutcome) :
    (s.endMuster o).pending = s.pending ∧ (s.endMuster o).free = s.free ∧
    (s.endMuster o).port = s.port ∧ (s.endMuster o).loader = s.loader ∧
    (s.endMuster o).time = s.time ∧ (s.endMuster o).cfg = s.cfg ∧ (s.endMuster o).lines = s.lines ∧
    (s.endMuster o).muster = s.muster ∧ (s.endMuster o).screen = s.screen ∧
    (s.endMuster o).station = s.station ∧ (s.endMuster o).route = s.route ∧
    (s.endMuster o).prog = s.prog ∧ (s.endMuster o).cabin = s.cabin ∧
    (s.endMuster o).notice = s.notice := by
  simp [State.endMuster]

@[simp] theorem State.cmdMusterOrder_frame (s : State) :
    (s.cmdMusterOrder).pending = s.pending ∧ (s.cmdMusterOrder).port = s.port ∧
    (s.cmdMusterOrder).loader = s.loader ∧ (s.cmdMusterOrder).time = s.time ∧
    (s.cmdMusterOrder).cfg = s.cfg ∧ (s.cmdMusterOrder).lines = s.lines ∧
    (s.cmdMusterOrder).station = s.station ∧ (s.cmdMusterOrder).prog = s.prog := by
  simp [State.cmdMusterOrder]

@[simp] theorem State.cmdDrillStart_frame (s : State) :
    (s.cmdDrillStart).pending = s.pending ∧ (s.cmdDrillStart).port = s.port ∧
    (s.cmdDrillStart).loader = s.loader ∧ (s.cmdDrillStart).time = s.time ∧
    (s.cmdDrillStart).cfg = s.cfg ∧ (s.cmdDrillStart).lines = s.lines ∧
    (s.cmdDrillStart).station = s.station ∧ (s.cmdDrillStart).prog = s.prog := by
  unfold State.cmdDrillStart
  repeat' split
  all_goals simp

@[simp] theorem State.cmdDrillEnd_frame (s : State) :
    (s.cmdDrillEnd).pending = s.pending ∧ (s.cmdDrillEnd).port = s.port ∧
    (s.cmdDrillEnd).loader = s.loader ∧ (s.cmdDrillEnd).time = s.time ∧
    (s.cmdDrillEnd).cfg = s.cfg ∧ (s.cmdDrillEnd).lines = s.lines ∧
    (s.cmdDrillEnd).station = s.station ∧ (s.cmdDrillEnd).prog = s.prog := by
  unfold State.cmdDrillEnd
  repeat' split
  all_goals simp

@[simp] theorem State.cmdAllClear_frame (s : State) :
    (s.cmdAllClear).pending = s.pending ∧ (s.cmdAllClear).port = s.port ∧
    (s.cmdAllClear).loader = s.loader ∧ (s.cmdAllClear).time = s.time ∧
    (s.cmdAllClear).cfg = s.cfg ∧ (s.cmdAllClear).lines = s.lines ∧
    (s.cmdAllClear).station = s.station ∧ (s.cmdAllClear).prog = s.prog := by
  unfold State.cmdAllClear
  repeat' split
  all_goals simp

@[simp] theorem State.cmdStanddownEnd_frame (s : State) :
    (s.cmdStanddownEnd).pending = s.pending ∧ (s.cmdStanddownEnd).port = s.port ∧
    (s.cmdStanddownEnd).loader = s.loader ∧ (s.cmdStanddownEnd).time = s.time ∧
    (s.cmdStanddownEnd).cfg = s.cfg ∧ (s.cmdStanddownEnd).lines = s.lines ∧
    (s.cmdStanddownEnd).station = s.station ∧ (s.cmdStanddownEnd).prog = s.prog := by
  unfold State.cmdStanddownEnd
  repeat' split
  all_goals simp

@[simp] theorem State.standdownExpiry_frame (s : State) :
    (s.standdownExpiry).pending = s.pending ∧ (s.standdownExpiry).port = s.port ∧
    (s.standdownExpiry).loader = s.loader ∧ (s.standdownExpiry).time = s.time ∧
    (s.standdownExpiry).cfg = s.cfg ∧ (s.standdownExpiry).path = s.path ∧
    (s.standdownExpiry).lines = s.lines ∧ (s.standdownExpiry).station = s.station ∧
    (s.standdownExpiry).prog = s.prog := by
  unfold State.standdownExpiry
  repeat' split
  all_goals simp

@[simp] theorem State.generalAlarm_frame (s : State) (n : Nat) :
    (s.generalAlarm n).pending = s.pending ∧ (s.generalAlarm n).port = s.port ∧
    (s.generalAlarm n).loader = s.loader ∧ (s.generalAlarm n).time = s.time ∧
    (s.generalAlarm n).cfg = s.cfg ∧ (s.generalAlarm n).path = s.path ∧
    (s.generalAlarm n).lines = s.lines ∧ (s.generalAlarm n).station = s.station ∧
    (s.generalAlarm n).prog = s.prog := by
  simp [State.generalAlarm]

@[simp] theorem State.takeLongBlast_frame (s : State) :
    (s.takeLongBlast).pending = s.pending ∧ (s.takeLongBlast).port = s.port ∧
    (s.takeLongBlast).loader = s.loader ∧ (s.takeLongBlast).time = s.time ∧
    (s.takeLongBlast).cfg = s.cfg ∧ (s.takeLongBlast).path = s.path ∧
    (s.takeLongBlast).lines = s.lines ∧ (s.takeLongBlast).station = s.station ∧
    (s.takeLongBlast).prog = s.prog := by
  unfold State.takeLongBlast
  dsimp only
  repeat' split
  all_goals simp

@[simp] theorem State.takeBellFall_frame (s : State) :
    (s.takeBellFall).pending = s.pending ∧ (s.takeBellFall).port = s.port ∧
    (s.takeBellFall).loader = s.loader ∧ (s.takeBellFall).time = s.time ∧
    (s.takeBellFall).cfg = s.cfg ∧ (s.takeBellFall).path = s.path ∧
    (s.takeBellFall).lines = s.lines ∧ (s.takeBellFall).station = s.station ∧
    (s.takeBellFall).prog = s.prog := by
  simp [State.takeBellFall]

@[simp] theorem State.gapExpiry_frame (s : State) :
    (s.gapExpiry).pending = s.pending ∧ (s.gapExpiry).free = s.free ∧ (s.gapExpiry).port = s.port ∧
    (s.gapExpiry).loader = s.loader ∧ (s.gapExpiry).time = s.time ∧ (s.gapExpiry).cfg = s.cfg ∧
    (s.gapExpiry).path = s.path ∧ (s.gapExpiry).lines = s.lines ∧ (s.gapExpiry).screen = s.screen ∧
    (s.gapExpiry).station = s.station ∧ (s.gapExpiry).route = s.route ∧
    (s.gapExpiry).prog = s.prog ∧ (s.gapExpiry).cabin = s.cabin ∧ (s.gapExpiry).cmd = s.cmd ∧
    (s.gapExpiry).notice = s.notice := by
  unfold State.gapExpiry
  repeat' split
  all_goals simp

@[simp] theorem State.takeBytes_frame (s : State) (l : List (Nat × Byte)) :
    (s.takeBytes l).pending = s.pending ∧ (s.takeBytes l).free = s.free ∧
    (s.takeBytes l).port = s.port ∧ (s.takeBytes l).loader = s.loader ∧
    (s.takeBytes l).time = s.time ∧ (s.takeBytes l).cfg = s.cfg ∧ (s.takeBytes l).path = s.path ∧
    (s.takeBytes l).lines = s.lines ∧ (s.takeBytes l).muster = s.muster ∧
    (s.takeBytes l).screen = s.screen ∧ (s.takeBytes l).station = s.station ∧
    (s.takeBytes l).prog = s.prog ∧ (s.takeBytes l).cabin = s.cabin ∧ (s.takeBytes l).cmd = s.cmd ∧
    (s.takeBytes l).notice = s.notice := by
  unfold State.takeBytes
  dsimp only
  repeat' split
  all_goals simp

@[simp] theorem State.deliverSegments_frame (s : State) (k : Nat) (w : WriteLine) :
    (s.deliverSegments k w).pending = s.pending ∧ (s.deliverSegments k w).free = s.free ∧
    (s.deliverSegments k w).port = s.port ∧ (s.deliverSegments k w).loader = s.loader ∧
    (s.deliverSegments k w).time = s.time ∧ (s.deliverSegments k w).cfg = s.cfg ∧
    (s.deliverSegments k w).path = s.path ∧ (s.deliverSegments k w).lines = s.lines ∧
    (s.deliverSegments k w).muster = s.muster ∧ (s.deliverSegments k w).screen = s.screen ∧
    (s.deliverSegments k w).station = s.station ∧ (s.deliverSegments k w).prog = s.prog ∧
    (s.deliverSegments k w).cabin = s.cabin ∧ (s.deliverSegments k w).cmd = s.cmd ∧
    (s.deliverSegments k w).notice = s.notice := by
  simp [State.deliverSegments]

@[simp] theorem State.zoneChange_frame (s : State) (n : Fin 8) (b : Bool) :
    (s.zoneChange n b).pending = s.pending ∧ (s.zoneChange n b).free = s.free ∧
    (s.zoneChange n b).port = s.port ∧ (s.zoneChange n b).loader = s.loader ∧
    (s.zoneChange n b).time = s.time ∧ (s.zoneChange n b).cfg = s.cfg ∧
    (s.zoneChange n b).path = s.path ∧ (s.zoneChange n b).lines = s.lines ∧
    (s.zoneChange n b).muster = s.muster ∧ (s.zoneChange n b).screen = s.screen ∧
    (s.zoneChange n b).station = s.station ∧ (s.zoneChange n b).prog = s.prog ∧
    (s.zoneChange n b).cabin = s.cabin ∧ (s.zoneChange n b).cmd = s.cmd ∧
    (s.zoneChange n b).notice = s.notice := by
  unfold State.zoneChange
  dsimp only
  repeat' split
  all_goals simp

@[simp] theorem State.endComputation_frame (s : State) (i : Nat) (r : RouteResult) :
    (s.endComputation i r).pending = s.pending ∧ (s.endComputation i r).free = s.free ∧
    (s.endComputation i r).port = s.port ∧ (s.endComputation i r).loader = s.loader ∧
    (s.endComputation i r).time = s.time ∧ (s.endComputation i r).cfg = s.cfg ∧
    (s.endComputation i r).path = s.path ∧ (s.endComputation i r).lines = s.lines ∧
    (s.endComputation i r).muster = s.muster ∧ (s.endComputation i r).screen = s.screen ∧
    (s.endComputation i r).station = s.station ∧ (s.endComputation i r).prog = s.prog ∧
    (s.endComputation i r).cabin = s.cabin ∧ (s.endComputation i r).cmd = s.cmd := by
  simp [State.endComputation]

@[simp] theorem State.pursue_frame (s : State) (i : Nat) (t : PresentTarget) :
    (s.pursue i t).pending = s.pending ∧ (s.pursue i t).free = s.free ∧
    (s.pursue i t).port = s.port ∧ (s.pursue i t).loader = s.loader ∧
    (s.pursue i t).time = s.time ∧ (s.pursue i t).cfg = s.cfg ∧ (s.pursue i t).lines = s.lines ∧
    (s.pursue i t).muster = s.muster ∧ (s.pursue i t).screen = s.screen ∧
    (s.pursue i t).station = s.station ∧ (s.pursue i t).prog = s.prog ∧
    (s.pursue i t).cabin = s.cabin ∧ (s.pursue i t).cmd = s.cmd := by
  unfold State.pursue
  repeat' split
  all_goals simp

@[simp] theorem State.startComputation_frame (s : State) :
    (s.startComputation).pending = s.pending ∧ (s.startComputation).free = s.free ∧
    (s.startComputation).port = s.port ∧ (s.startComputation).loader = s.loader ∧
    (s.startComputation).time = s.time ∧ (s.startComputation).cfg = s.cfg ∧
    (s.startComputation).lines = s.lines ∧ (s.startComputation).muster = s.muster ∧
    (s.startComputation).screen = s.screen ∧ (s.startComputation).station = s.station ∧
    (s.startComputation).prog = s.prog ∧ (s.startComputation).cabin = s.cabin ∧
    (s.startComputation).cmd = s.cmd := by
  unfold State.startComputation
  dsimp only
  repeat' split
  all_goals simp

@[simp] theorem State.routeHandOver_frame (s : State) (l : List (Option LineData)) :
    (s.routeHandOver l).pending = s.pending ∧ (s.routeHandOver l).free = s.free ∧
    (s.routeHandOver l).port = s.port ∧ (s.routeHandOver l).loader = s.loader ∧
    (s.routeHandOver l).time = s.time ∧ (s.routeHandOver l).cfg = s.cfg ∧
    (s.routeHandOver l).lines = s.lines ∧ (s.routeHandOver l).muster = s.muster ∧
    (s.routeHandOver l).screen = s.screen ∧ (s.routeHandOver l).station = s.station ∧
    (s.routeHandOver l).prog = s.prog ∧ (s.routeHandOver l).cabin = s.cabin ∧
    (s.routeHandOver l).cmd = s.cmd := by
  unfold State.routeHandOver
  dsimp only
  split
  · split
    · split_ifs
      · split <;> simp
      · simp
    · simp
  · simp

@[simp] theorem State.evalEntry_frame (s : State) (i : Nat) :
    (s.evalEntry i).pending = s.pending ∧ (s.evalEntry i).free = s.free ∧
    (s.evalEntry i).port = s.port ∧ (s.evalEntry i).loader = s.loader ∧
    (s.evalEntry i).time = s.time ∧ (s.evalEntry i).cfg = s.cfg ∧ (s.evalEntry i).path = s.path ∧
    (s.evalEntry i).lines = s.lines ∧ (s.evalEntry i).muster = s.muster ∧
    (s.evalEntry i).screen = s.screen ∧ (s.evalEntry i).station = s.station ∧
    (s.evalEntry i).route = s.route ∧ (s.evalEntry i).cabin = s.cabin ∧ (s.evalEntry i).cmd = s.cmd := by
  unfold State.evalEntry
  dsimp only
  repeat' split
  all_goals simp

@[simp] theorem State.takeEntry_frame (s : State) (i o : Nat) (w : WriteLine) :
    (s.takeEntry i o w).pending = s.pending ∧ (s.takeEntry i o w).free = s.free ∧
    (s.takeEntry i o w).port = s.port ∧ (s.takeEntry i o w).loader = s.loader ∧
    (s.takeEntry i o w).time = s.time ∧ (s.takeEntry i o w).cfg = s.cfg ∧
    (s.takeEntry i o w).path = s.path ∧ (s.takeEntry i o w).lines = s.lines ∧
    (s.takeEntry i o w).muster = s.muster ∧ (s.takeEntry i o w).screen = s.screen ∧
    (s.takeEntry i o w).station = s.station ∧ (s.takeEntry i o w).route = s.route ∧
    (s.takeEntry i o w).cabin = s.cabin ∧ (s.takeEntry i o w).cmd = s.cmd := by
  unfold State.takeEntry
  repeat' split
  all_goals simp

@[simp] theorem State.computeFeatured_frame (s : State) (i : Nat) :
    (s.computeFeatured i).pending = s.pending ∧ (s.computeFeatured i).free = s.free ∧
    (s.computeFeatured i).port = s.port ∧ (s.computeFeatured i).loader = s.loader ∧
    (s.computeFeatured i).time = s.time ∧ (s.computeFeatured i).cfg = s.cfg ∧
    (s.computeFeatured i).path = s.path ∧ (s.computeFeatured i).lines = s.lines ∧
    (s.computeFeatured i).muster = s.muster ∧ (s.computeFeatured i).screen = s.screen ∧
    (s.computeFeatured i).station = s.station ∧ (s.computeFeatured i).cabin = s.cabin ∧
    (s.computeFeatured i).cmd = s.cmd ∧ (s.computeFeatured i).notice = s.notice := by
  unfold State.computeFeatured
  dsimp only
  repeat' split
  all_goals simp

@[simp] theorem State.deliverProgramme_frame (s : State) (k : Nat) (w : WriteLine) :
    (s.deliverProgramme k w).pending = s.pending ∧ (s.deliverProgramme k w).free = s.free ∧
    (s.deliverProgramme k w).port = s.port ∧ (s.deliverProgramme k w).loader = s.loader ∧
    (s.deliverProgramme k w).time = s.time ∧ (s.deliverProgramme k w).cfg = s.cfg ∧
    (s.deliverProgramme k w).path = s.path ∧ (s.deliverProgramme k w).lines = s.lines ∧
    (s.deliverProgramme k w).muster = s.muster ∧ (s.deliverProgramme k w).screen = s.screen ∧
    (s.deliverProgramme k w).station = s.station ∧ (s.deliverProgramme k w).cabin = s.cabin ∧
    (s.deliverProgramme k w).cmd = s.cmd := by
  unfold State.deliverProgramme
  repeat' split
  all_goals simp

@[simp] theorem State.clockTick_frame (s : State) :
    (s.clockTick).pending = s.pending ∧ (s.clockTick).free = s.free ∧ (s.clockTick).port = s.port ∧
    (s.clockTick).loader = s.loader ∧ (s.clockTick).time = s.time ∧ (s.clockTick).cfg = s.cfg ∧
    (s.clockTick).path = s.path ∧ (s.clockTick).lines = s.lines ∧ (s.clockTick).muster = s.muster ∧
    (s.clockTick).screen = s.screen ∧ (s.clockTick).station = s.station ∧
    (s.clockTick).cabin = s.cabin ∧ (s.clockTick).cmd = s.cmd := by
  unfold State.clockTick
  dsimp only
  repeat' split
  all_goals simp

@[simp] theorem State.cmdSetClock_frame (s : State) (a b : Nat) :
    (s.cmdSetClock a b).pending = s.pending ∧ (s.cmdSetClock a b).free = s.free ∧
    (s.cmdSetClock a b).port = s.port ∧ (s.cmdSetClock a b).loader = s.loader ∧
    (s.cmdSetClock a b).time = s.time ∧ (s.cmdSetClock a b).cfg = s.cfg ∧
    (s.cmdSetClock a b).lines = s.lines ∧ (s.cmdSetClock a b).muster = s.muster ∧
    (s.cmdSetClock a b).screen = s.screen ∧ (s.cmdSetClock a b).station = s.station ∧
    (s.cmdSetClock a b).cabin = s.cabin ∧ (s.cmdSetClock a b).notice = s.notice := by
  unfold State.cmdSetClock
  dsimp only
  repeat' split
  all_goals simp

@[simp] theorem State.cmdScheduleShift_frame (s : State) (a b : Nat) (m : Int) :
    (s.cmdScheduleShift a b m).pending = s.pending ∧ (s.cmdScheduleShift a b m).free = s.free ∧
    (s.cmdScheduleShift a b m).port = s.port ∧ (s.cmdScheduleShift a b m).loader = s.loader ∧
    (s.cmdScheduleShift a b m).time = s.time ∧ (s.cmdScheduleShift a b m).cfg = s.cfg ∧
    (s.cmdScheduleShift a b m).lines = s.lines ∧ (s.cmdScheduleShift a b m).muster = s.muster ∧
    (s.cmdScheduleShift a b m).screen = s.screen ∧ (s.cmdScheduleShift a b m).station = s.station ∧
    (s.cmdScheduleShift a b m).route = s.route ∧ (s.cmdScheduleShift a b m).cabin = s.cabin ∧
    (s.cmdScheduleShift a b m).notice = s.notice := by
  unfold State.cmdScheduleShift
  dsimp only
  repeat' split
  all_goals simp

@[simp] theorem State.cmdCancelShift_frame (s : State) :
    (s.cmdCancelShift).pending = s.pending ∧ (s.cmdCancelShift).free = s.free ∧
    (s.cmdCancelShift).port = s.port ∧ (s.cmdCancelShift).loader = s.loader ∧
    (s.cmdCancelShift).time = s.time ∧ (s.cmdCancelShift).cfg = s.cfg ∧
    (s.cmdCancelShift).lines = s.lines ∧ (s.cmdCancelShift).muster = s.muster ∧
    (s.cmdCancelShift).screen = s.screen ∧ (s.cmdCancelShift).station = s.station ∧
    (s.cmdCancelShift).route = s.route ∧ (s.cmdCancelShift).cabin = s.cabin ∧
    (s.cmdCancelShift).notice = s.notice := by
  simp [State.cmdCancelShift]

@[simp] theorem State.cmdSetDefaultTarget_frame (s : State) (a b : Nat) :
    (s.cmdSetDefaultTarget a b).pending = s.pending ∧ (s.cmdSetDefaultTarget a b).free = s.free ∧
    (s.cmdSetDefaultTarget a b).port = s.port ∧ (s.cmdSetDefaultTarget a b).loader = s.loader ∧
    (s.cmdSetDefaultTarget a b).time = s.time ∧ (s.cmdSetDefaultTarget a b).cfg = s.cfg ∧
    (s.cmdSetDefaultTarget a b).lines = s.lines ∧ (s.cmdSetDefaultTarget a b).muster = s.muster ∧
    (s.cmdSetDefaultTarget a b).station = s.station ∧ (s.cmdSetDefaultTarget a b).cabin = s.cabin ∧
    (s.cmdSetDefaultTarget a b).notice = s.notice := by
  unfold State.cmdSetDefaultTarget
  dsimp only
  repeat' split
  all_goals simp

@[simp] theorem State.cmdRescan_frame (s : State) (a : Nat) :
    (s.cmdRescan a).pending = s.pending ∧ (s.cmdRescan a).free = s.free ∧
    (s.cmdRescan a).port = s.port ∧ (s.cmdRescan a).loader = s.loader ∧
    (s.cmdRescan a).time = s.time ∧ (s.cmdRescan a).cfg = s.cfg ∧ (s.cmdRescan a).lines = s.lines ∧
    (s.cmdRescan a).muster = s.muster ∧ (s.cmdRescan a).screen = s.screen ∧
    (s.cmdRescan a).station = s.station ∧ (s.cmdRescan a).route = s.route ∧
    (s.cmdRescan a).prog = s.prog ∧ (s.cmdRescan a).cabin = s.cabin ∧
    (s.cmdRescan a).notice = s.notice := by
  unfold State.cmdRescan
  repeat' split
  all_goals simp

@[simp] theorem State.scanEntry_frame (s : State) (u : ScanUnit) :
    (s.scanEntry u).pending = s.pending ∧ (s.scanEntry u).free = s.free ∧
    (s.scanEntry u).port = s.port ∧ (s.scanEntry u).loader = s.loader ∧
    (s.scanEntry u).time = s.time ∧ (s.scanEntry u).cfg = s.cfg ∧ (s.scanEntry u).path = s.path ∧
    (s.scanEntry u).lines = s.lines ∧ (s.scanEntry u).muster = s.muster ∧
    (s.scanEntry u).screen = s.screen ∧ (s.scanEntry u).station = s.station ∧
    (s.scanEntry u).route = s.route ∧ (s.scanEntry u).cabin = s.cabin ∧ (s.scanEntry u).cmd = s.cmd := by
  simp [State.scanEntry]

@[simp] theorem State.endScan_frame (s : State) (n : Nat) (f : Bool) :
    (s.endScan n f).pending = s.pending ∧ (s.endScan n f).free = s.free ∧
    (s.endScan n f).port = s.port ∧ (s.endScan n f).loader = s.loader ∧
    (s.endScan n f).time = s.time ∧ (s.endScan n f).cfg = s.cfg ∧ (s.endScan n f).lines = s.lines ∧
    (s.endScan n f).muster = s.muster ∧ (s.endScan n f).screen = s.screen ∧
    (s.endScan n f).station = s.station ∧ (s.endScan n f).route = s.route ∧
    (s.endScan n f).prog = s.prog ∧ (s.endScan n f).cabin = s.cabin ∧
    (s.endScan n f).notice = s.notice := by
  simp [State.endScan]

@[simp] theorem State.cmdSetRing_frame (s : State) :
    (s.cmdSetRing).pending = s.pending ∧ (s.cmdSetRing).free = s.free ∧
    (s.cmdSetRing).port = s.port ∧ (s.cmdSetRing).loader = s.loader ∧
    (s.cmdSetRing).time = s.time ∧ (s.cmdSetRing).cfg = s.cfg ∧ (s.cmdSetRing).lines = s.lines ∧
    (s.cmdSetRing).muster = s.muster ∧ (s.cmdSetRing).screen = s.screen ∧
    (s.cmdSetRing).station = s.station ∧ (s.cmdSetRing).route = s.route ∧
    (s.cmdSetRing).prog = s.prog ∧ (s.cmdSetRing).cabin = s.cabin := by
  unfold State.cmdSetRing
  dsimp only
  repeat' split
  all_goals simp

@[simp] theorem State.noticeTurn_frame (s : State) :
    (s.noticeTurn).pending = s.pending ∧ (s.noticeTurn).free = s.free ∧
    (s.noticeTurn).port = s.port ∧ (s.noticeTurn).loader = s.loader ∧
    (s.noticeTurn).time = s.time ∧ (s.noticeTurn).cfg = s.cfg ∧ (s.noticeTurn).lines = s.lines ∧
    (s.noticeTurn).muster = s.muster ∧ (s.noticeTurn).screen = s.screen ∧
    (s.noticeTurn).station = s.station ∧ (s.noticeTurn).route = s.route ∧
    (s.noticeTurn).prog = s.prog ∧ (s.noticeTurn).cabin = s.cabin ∧ (s.noticeTurn).cmd = s.cmd := by
  unfold State.noticeTurn
  dsimp only
  repeat' split
  all_goals simp

/-- A fold of an operation that keeps a part of the state keeps it. -/
theorem foldl_keeps {α β : Type} (p : State → α) (f : State → β → State) (h : ∀ s b, p (f s b) = p s)
    (l : List β) (s : State) : p (l.foldl f s) = p s := by
  induction l generalizing s with
  | nil => rfl
  | cons b l ih => rw [List.foldl_cons, ih, h]

@[simp] theorem State.scanEntries_frame (s : State) (l : List ScanUnit) :
    (l.foldl State.scanEntry s).pending = s.pending ∧ (l.foldl State.scanEntry s).free = s.free ∧
    (l.foldl State.scanEntry s).port = s.port ∧ (l.foldl State.scanEntry s).loader = s.loader ∧
    (l.foldl State.scanEntry s).time = s.time ∧ (l.foldl State.scanEntry s).cfg = s.cfg ∧
    (l.foldl State.scanEntry s).path = s.path ∧ (l.foldl State.scanEntry s).lines = s.lines ∧
    (l.foldl State.scanEntry s).muster = s.muster ∧ (l.foldl State.scanEntry s).screen = s.screen ∧
    (l.foldl State.scanEntry s).station = s.station ∧ (l.foldl State.scanEntry s).route = s.route ∧
    (l.foldl State.scanEntry s).cabin = s.cabin ∧ (l.foldl State.scanEntry s).cmd = s.cmd := by
  refine ⟨?_, ?_, ?_, ?_, ?_, ?_, ?_, ?_, ?_, ?_, ?_, ?_, ?_, ?_⟩ <;>
    exact foldl_keeps _ _ (by intro s b; simp) _ _

@[simp] theorem State.scanHomes_frame (s : State) (l : List ScanUnit) :
    (l.foldl (fun t u => t.takeHome u.index (vecByte u.data (u.offset + 1))) s).pending = s.pending ∧
    (l.foldl (fun t u => t.takeHome u.index (vecByte u.data (u.offset + 1))) s).free = s.free ∧
    (l.foldl (fun t u => t.takeHome u.index (vecByte u.data (u.offset + 1))) s).port = s.port ∧
    (l.foldl (fun t u => t.takeHome u.index (vecByte u.data (u.offset + 1))) s).loader = s.loader ∧
    (l.foldl (fun t u => t.takeHome u.index (vecByte u.data (u.offset + 1))) s).time = s.time ∧
    (l.foldl (fun t u => t.takeHome u.index (vecByte u.data (u.offset + 1))) s).cfg = s.cfg ∧
    (l.foldl (fun t u => t.takeHome u.index (vecByte u.data (u.offset + 1))) s).path = s.path ∧
    (l.foldl (fun t u => t.takeHome u.index (vecByte u.data (u.offset + 1))) s).lines = s.lines ∧
    (l.foldl (fun t u => t.takeHome u.index (vecByte u.data (u.offset + 1))) s).muster = s.muster ∧
    (l.foldl (fun t u => t.takeHome u.index (vecByte u.data (u.offset + 1))) s).screen = s.screen ∧
    (l.foldl (fun t u => t.takeHome u.index (vecByte u.data (u.offset + 1))) s).station = s.station ∧
    (l.foldl (fun t u => t.takeHome u.index (vecByte u.data (u.offset + 1))) s).route = s.route ∧
    (l.foldl (fun t u => t.takeHome u.index (vecByte u.data (u.offset + 1))) s).prog = s.prog ∧
    (l.foldl (fun t u => t.takeHome u.index (vecByte u.data (u.offset + 1))) s).cmd = s.cmd ∧
    (l.foldl (fun t u => t.takeHome u.index (vecByte u.data (u.offset + 1))) s).notice = s.notice := by
  refine ⟨?_, ?_, ?_, ?_, ?_, ?_, ?_, ?_, ?_, ?_, ?_, ?_, ?_, ?_, ?_⟩ <;>
    exact foldl_keeps _ _ (by intro s b; simp) _ _

@[simp] theorem State.placeStatuses_frame (s : State) (l : List (Fin 7)) :
    (l.foldl State.placeStatus s).pending = s.pending ∧
    (l.foldl State.placeStatus s).free = s.free ∧ (l.foldl State.placeStatus s).port = s.port ∧
    (l.foldl State.placeStatus s).loader = s.loader ∧ (l.foldl State.placeStatus s).time = s.time ∧
    (l.foldl State.placeStatus s).cfg = s.cfg ∧ (l.foldl State.placeStatus s).lines = s.lines ∧
    (l.foldl State.placeStatus s).muster = s.muster ∧
    (l.foldl State.placeStatus s).screen = s.screen ∧
    (l.foldl State.placeStatus s).station = s.station ∧
    (l.foldl State.placeStatus s).route = s.route ∧ (l.foldl State.placeStatus s).prog = s.prog ∧
    (l.foldl State.placeStatus s).cabin = s.cabin ∧ (l.foldl State.placeStatus s).cmd = s.cmd := by
  refine ⟨?_, ?_, ?_, ?_, ?_, ?_, ?_, ?_, ?_, ?_, ?_, ?_, ?_, ?_⟩ <;>
    exact foldl_keeps _ _ (by intro s b; simp) _ _

@[simp] theorem State.takeUnits_frame (s : State) (t : ScanTable) (l : List ScanUnit) :
    (s.takeUnits t l).pending = s.pending ∧ (s.takeUnits t l).free = s.free ∧
    (s.takeUnits t l).port = s.port ∧ (s.takeUnits t l).loader = s.loader ∧
    (s.takeUnits t l).time = s.time ∧ (s.takeUnits t l).cfg = s.cfg ∧
    (s.takeUnits t l).path = s.path ∧ (s.takeUnits t l).lines = s.lines ∧
    (s.takeUnits t l).muster = s.muster ∧ (s.takeUnits t l).screen = s.screen ∧
    (s.takeUnits t l).station = s.station ∧ (s.takeUnits t l).cmd = s.cmd := by
  unfold State.takeUnits
  repeat' split
  all_goals simp

@[simp] theorem State.scanHandOver_frame (s : State) (l : List (Option LineData)) :
    (s.scanHandOver l).pending = s.pending ∧ (s.scanHandOver l).free = s.free ∧
    (s.scanHandOver l).port = s.port ∧ (s.scanHandOver l).loader = s.loader ∧
    (s.scanHandOver l).time = s.time ∧ (s.scanHandOver l).cfg = s.cfg ∧
    (s.scanHandOver l).lines = s.lines ∧ (s.scanHandOver l).muster = s.muster ∧
    (s.scanHandOver l).screen = s.screen ∧ (s.scanHandOver l).station = s.station := by
  unfold State.scanHandOver
  dsimp only
  repeat' split
  all_goals simp

@[simp] theorem State.statusTurn_frame (s : State) (l : List (Fin 7)) :
    (s.statusTurn l).pending = s.pending ∧ (s.statusTurn l).free = s.free ∧
    (s.statusTurn l).port = s.port ∧ (s.statusTurn l).loader = s.loader ∧
    (s.statusTurn l).time = s.time ∧ (s.statusTurn l).cfg = s.cfg ∧
    (s.statusTurn l).lines = s.lines ∧ (s.statusTurn l).muster = s.muster ∧
    (s.statusTurn l).screen = s.screen ∧ (s.statusTurn l).station = s.station ∧
    (s.statusTurn l).route = s.route ∧ (s.statusTurn l).prog = s.prog ∧
    (s.statusTurn l).cabin = s.cabin ∧ (s.statusTurn l).cmd = s.cmd := by
  simp [State.statusTurn]

@[simp] theorem State.takeTurn_frame (s : State) (t : Turn) :
    (s.takeTurn t).pending = s.pending ∧ (s.takeTurn t).free = s.free ∧
    (s.takeTurn t).port = s.port ∧ (s.takeTurn t).loader = s.loader ∧
    (s.takeTurn t).time = s.time ∧ (s.takeTurn t).cfg = s.cfg ∧ (s.takeTurn t).lines = s.lines ∧
    (s.takeTurn t).muster = s.muster ∧ (s.takeTurn t).screen = s.screen ∧
    (s.takeTurn t).station = s.station ∧ (s.takeTurn t).route = s.route ∧
    (s.takeTurn t).prog = s.prog ∧ (s.takeTurn t).cabin = s.cabin ∧ (s.takeTurn t).cmd = s.cmd := by
  cases t <;> simp [State.takeTurn]

@[simp] theorem State.writerTurn_frame (s : State) :
    (s.writerTurn).pending = s.pending ∧ (s.writerTurn).free = s.free ∧
    (s.writerTurn).port = s.port ∧ (s.writerTurn).loader = s.loader ∧
    (s.writerTurn).time = s.time ∧ (s.writerTurn).cfg = s.cfg ∧ (s.writerTurn).lines = s.lines ∧
    (s.writerTurn).muster = s.muster ∧ (s.writerTurn).screen = s.screen ∧
    (s.writerTurn).station = s.station ∧ (s.writerTurn).route = s.route ∧
    (s.writerTurn).prog = s.prog ∧ (s.writerTurn).cabin = s.cabin ∧ (s.writerTurn).cmd = s.cmd := by
  unfold State.writerTurn
  repeat' split
  all_goals simp

@[simp] theorem State.startCommand_frame (s : State) (n : Nat) :
    (s.startCommand n).pending = s.pending ∧ (s.startCommand n).port = s.port ∧
    (s.startCommand n).loader = s.loader ∧ (s.startCommand n).time = s.time ∧
    (s.startCommand n).cfg = s.cfg ∧ (s.startCommand n).lines = s.lines := by
  unfold State.startCommand
  repeat' split
  all_goals simp [State.cmdUnknown]

@[simp] theorem State.actOnWord_frame (s : State) :
    (s.actOnWord).pending = s.pending ∧ (s.actOnWord).port = s.port ∧
    (s.actOnWord).loader = s.loader ∧ (s.actOnWord).time = s.time ∧ (s.actOnWord).cfg = s.cfg ∧
    (s.actOnWord).lines = s.lines := by
  unfold State.actOnWord
  dsimp only
  repeat' split
  all_goals simp

@[simp] theorem State.deliverSlot_frame (s : State) (w : WriteLine) :
    (s.deliverSlot w).pending = s.pending ∧ (s.deliverSlot w).port = s.port ∧
    (s.deliverSlot w).loader = s.loader ∧ (s.deliverSlot w).time = s.time ∧
    (s.deliverSlot w).cfg = s.cfg ∧ (s.deliverSlot w).lines = s.lines := by
  unfold State.deliverSlot
  dsimp only
  repeat' split
  all_goals simp

@[simp] theorem State.deliverControl_frame (s : State) (k : Nat) (w : WriteLine) :
    (s.deliverControl k w).pending = s.pending ∧ (s.deliverControl k w).port = s.port ∧
    (s.deliverControl k w).loader = s.loader ∧ (s.deliverControl k w).time = s.time ∧
    (s.deliverControl k w).cfg = s.cfg ∧ (s.deliverControl k w).lines = s.lines := by
  unfold State.deliverControl
  repeat' split
  all_goals simp

@[simp] theorem State.deliverLine_frame (s : State) (q : Nat) (a : Addr) (w : WriteLine) :
    (s.deliverLine q a w).pending = s.pending ∧ (s.deliverLine q a w).port = s.port ∧
    (s.deliverLine q a w).loader = s.loader ∧ (s.deliverLine q a w).time = s.time ∧
    (s.deliverLine q a w).cfg = s.cfg ∧ (s.deliverLine q a w).lines = s.lines := by
  unfold State.deliverLine
  dsimp only
  repeat' split
  all_goals simp

@[simp] theorem State.deliverLines_frame (s : State) (q : Nat) (l : List (Addr × WriteLine)) :
    (l.foldl (fun t x => t.deliverLine q x.1 x.2) s).pending = s.pending ∧
    (l.foldl (fun t x => t.deliverLine q x.1 x.2) s).port = s.port ∧
    (l.foldl (fun t x => t.deliverLine q x.1 x.2) s).loader = s.loader ∧
    (l.foldl (fun t x => t.deliverLine q x.1 x.2) s).time = s.time ∧
    (l.foldl (fun t x => t.deliverLine q x.1 x.2) s).cfg = s.cfg ∧
    (l.foldl (fun t x => t.deliverLine q x.1 x.2) s).lines = s.lines := by
  refine ⟨?_, ?_, ?_, ?_, ?_, ?_⟩ <;>
    exact foldl_keeps _ _ (by intro s b; simp) _ _

@[simp] theorem State.acceptWrite_frame (s : State) (l : List (Addr × WriteLine)) :
    (s.acceptWrite l).pending = s.pending ∧ (s.acceptWrite l).loader = s.loader ∧
    (s.acceptWrite l).time = s.time ∧ (s.acceptWrite l).cfg = s.cfg ∧
    (s.acceptWrite l).lines = s.lines := by
  simp [State.acceptWrite]

@[simp] theorem State.writeArrives_frame (s : State) (a : Addr) (l : List WriteLine) :
    (s.writeArrives a l).pending = s.pending ∧ (s.writeArrives a l).loader = s.loader ∧
    (s.writeArrives a l).time = s.time ∧ (s.writeArrives a l).cfg = s.cfg ∧
    (s.writeArrives a l).lines = s.lines := by
  unfold State.writeArrives
  dsimp only
  repeat' split
  all_goals simp

@[simp] theorem State.windowWrite_frame (s : State) (w : Option Window) (k : Nat) (x : WriteLine) :
    (s.windowWrite w k x).pending = s.pending ∧ (s.windowWrite w k x).loader = s.loader ∧
    (s.windowWrite w k x).time = s.time ∧ (s.windowWrite w k x).cfg = s.cfg ∧
    (s.windowWrite w k x).lines = s.lines := by
  unfold State.windowWrite
  repeat' split
  all_goals simp

@[simp] theorem State.commandWrite_frame (s : State) (c q : Byte) (l : List Word) :
    (s.commandWrite c q l).pending = s.pending ∧ (s.commandWrite c q l).loader = s.loader ∧
    (s.commandWrite c q l).time = s.time ∧ (s.commandWrite c q l).cfg = s.cfg ∧
    (s.commandWrite c q l).lines = s.lines := by
  simp [State.commandWrite]

@[simp] theorem takeReadLine_frame (tag : Tag) (acc : State × List ReadLine) (a : Addr) :
    (takeReadLine tag acc a).1.pending = acc.1.pending ∧
    (takeReadLine tag acc a).1.free = acc.1.free ∧ (takeReadLine tag acc a).1.port = acc.1.port ∧
    (takeReadLine tag acc a).1.loader = acc.1.loader ∧
    (takeReadLine tag acc a).1.time = acc.1.time ∧ (takeReadLine tag acc a).1.cfg = acc.1.cfg ∧
    (takeReadLine tag acc a).1.path = acc.1.path ∧ (takeReadLine tag acc a).1.lines = acc.1.lines ∧
    (takeReadLine tag acc a).1.station = acc.1.station ∧
    (takeReadLine tag acc a).1.route = acc.1.route ∧ (takeReadLine tag acc a).1.prog = acc.1.prog ∧
    (takeReadLine tag acc a).1.cabin = acc.1.cabin ∧ (takeReadLine tag acc a).1.cmd = acc.1.cmd := by
  simp [takeReadLine]

theorem takeReadLines_frame (tag : Tag) (l : List Addr) (acc : State × List ReadLine) :
    (l.foldl (takeReadLine tag) acc).1.pending = acc.1.pending ∧
    (l.foldl (takeReadLine tag) acc).1.free = acc.1.free ∧
    (l.foldl (takeReadLine tag) acc).1.port = acc.1.port ∧
    (l.foldl (takeReadLine tag) acc).1.loader = acc.1.loader ∧
    (l.foldl (takeReadLine tag) acc).1.time = acc.1.time ∧
    (l.foldl (takeReadLine tag) acc).1.cfg = acc.1.cfg ∧
    (l.foldl (takeReadLine tag) acc).1.path = acc.1.path ∧
    (l.foldl (takeReadLine tag) acc).1.lines = acc.1.lines ∧
    (l.foldl (takeReadLine tag) acc).1.station = acc.1.station ∧
    (l.foldl (takeReadLine tag) acc).1.route = acc.1.route ∧
    (l.foldl (takeReadLine tag) acc).1.prog = acc.1.prog ∧
    (l.foldl (takeReadLine tag) acc).1.cabin = acc.1.cabin ∧
    (l.foldl (takeReadLine tag) acc).1.cmd = acc.1.cmd := by
  induction l generalizing acc with
  | nil => simp
  | cons a l ih => simp only [List.foldl_cons]; simpa using ih (takeReadLine tag acc a)

@[simp] theorem State.resolveRead_frame (s : State) (tag : Tag) (a : Addr) (n : Nat) :
    ((s.resolveRead tag a n).1).pending = s.pending ∧ ((s.resolveRead tag a n).1).free = s.free ∧
    ((s.resolveRead tag a n).1).port = s.port ∧ ((s.resolveRead tag a n).1).loader = s.loader ∧
    ((s.resolveRead tag a n).1).time = s.time ∧ ((s.resolveRead tag a n).1).cfg = s.cfg ∧
    ((s.resolveRead tag a n).1).path = s.path ∧ ((s.resolveRead tag a n).1).lines = s.lines ∧
    ((s.resolveRead tag a n).1).station = s.station ∧ ((s.resolveRead tag a n).1).route = s.route ∧
    ((s.resolveRead tag a n).1).prog = s.prog ∧ ((s.resolveRead tag a n).1).cabin = s.cabin ∧
    ((s.resolveRead tag a n).1).cmd = s.cmd := takeReadLines_frame _ _ _

@[simp] theorem State.readArrives_frame (s : State) (tag : Tag) (a : Addr) (n : Nat) :
    (s.readArrives tag a n).pending = s.pending ∧ (s.readArrives tag a n).free = s.free ∧
    (s.readArrives tag a n).loader = s.loader ∧ (s.readArrives tag a n).time = s.time ∧
    (s.readArrives tag a n).cfg = s.cfg ∧ (s.readArrives tag a n).lines = s.lines ∧
    (s.readArrives tag a n).station = s.station ∧ (s.readArrives tag a n).route = s.route ∧
    (s.readArrives tag a n).prog = s.prog ∧ (s.readArrives tag a n).cabin = s.cabin ∧
    (s.readArrives tag a n).cmd = s.cmd := by
  unfold State.readArrives
  dsimp only
  repeat' split
  all_goals simp

@[simp] theorem State.answerRead_frame (s : State) (i : Fin 8) :
    (s.answerRead i).pending = s.pending ∧ (s.answerRead i).free = s.free ∧
    (s.answerRead i).loader = s.loader ∧ (s.answerRead i).time = s.time ∧
    (s.answerRead i).cfg = s.cfg ∧ (s.answerRead i).lines = s.lines ∧
    (s.answerRead i).muster = s.muster ∧ (s.answerRead i).screen = s.screen ∧
    (s.answerRead i).station = s.station ∧ (s.answerRead i).route = s.route ∧
    (s.answerRead i).prog = s.prog ∧ (s.answerRead i).cabin = s.cabin ∧
    (s.answerRead i).cmd = s.cmd ∧ (s.answerRead i).notice = s.notice := by
  unfold State.answerRead
  dsimp only
  repeat' split
  all_goals simp

@[simp] theorem State.pwqLeaves_frame (s : State) (b : Bool) :
    (s.pwqLeaves b).pending = s.pending ∧ (s.pwqLeaves b).free = s.free ∧
    (s.pwqLeaves b).port = s.port ∧ (s.pwqLeaves b).loader = s.loader ∧
    (s.pwqLeaves b).time = s.time ∧ (s.pwqLeaves b).cfg = s.cfg ∧ (s.pwqLeaves b).lines = s.lines ∧
    (s.pwqLeaves b).muster = s.muster ∧ (s.pwqLeaves b).screen = s.screen ∧
    (s.pwqLeaves b).station = s.station ∧ (s.pwqLeaves b).route = s.route ∧
    (s.pwqLeaves b).prog = s.prog ∧ (s.pwqLeaves b).cabin = s.cabin ∧ (s.pwqLeaves b).cmd = s.cmd := by
  unfold State.pwqLeaves
  dsimp only
  repeat' split
  all_goals simp

@[simp] theorem State.iwqLeaves_frame (s : State) (b : Bool) :
    (s.iwqLeaves b).pending = s.pending ∧ (s.iwqLeaves b).free = s.free ∧
    (s.iwqLeaves b).port = s.port ∧ (s.iwqLeaves b).loader = s.loader ∧
    (s.iwqLeaves b).time = s.time ∧ (s.iwqLeaves b).cfg = s.cfg ∧ (s.iwqLeaves b).lines = s.lines ∧
    (s.iwqLeaves b).muster = s.muster ∧ (s.iwqLeaves b).screen = s.screen ∧
    (s.iwqLeaves b).station = s.station ∧ (s.iwqLeaves b).route = s.route ∧
    (s.iwqLeaves b).prog = s.prog ∧ (s.iwqLeaves b).cabin = s.cabin ∧ (s.iwqLeaves b).cmd = s.cmd ∧
    (s.iwqLeaves b).notice = s.notice := by
  unfold State.iwqLeaves
  dsimp only
  repeat' split
  all_goals simp

@[simp] theorem State.lineData_frame (s : State) (i : Fin 8) (l : Nat) (d : LineData) :
    (s.lineData i l d).pending = s.pending ∧
    (s.lineData i l d).port = s.port ∧ (s.lineData i l d).loader = s.loader ∧
    (s.lineData i l d).time = s.time ∧ (s.lineData i l d).cfg = s.cfg ∧
    (s.lineData i l d).lines = s.lines ∧ (s.lineData i l d).muster = s.muster ∧
    (s.lineData i l d).screen = s.screen ∧ (s.lineData i l d).station = s.station ∧
    (s.lineData i l d).route = s.route ∧ (s.lineData i l d).prog = s.prog ∧
    (s.lineData i l d).cmd = s.cmd := by
  unfold State.lineData
  repeat' split
  all_goals simp

@[simp] theorem State.lineFails_frame (s : State) (i : Fin 8) (l : Nat) :
    (s.lineFails i l).pending = s.pending ∧ (s.lineFails i l).free = s.free ∧
    (s.lineFails i l).port = s.port ∧ (s.lineFails i l).loader = s.loader ∧
    (s.lineFails i l).time = s.time ∧ (s.lineFails i l).cfg = s.cfg ∧
    (s.lineFails i l).lines = s.lines ∧ (s.lineFails i l).muster = s.muster ∧
    (s.lineFails i l).station = s.station ∧ (s.lineFails i l).route = s.route ∧
    (s.lineFails i l).prog = s.prog ∧ (s.lineFails i l).cabin = s.cabin ∧
    (s.lineFails i l).cmd = s.cmd := by
  unfold State.lineFails
  repeat' split
  all_goals simp

@[simp] theorem State.handOver_frame (s : State) (k : Fin 2) (l : List (Option LineData)) :
    (s.handOver k l).pending = s.pending ∧ (s.handOver k l).free = s.free ∧
    (s.handOver k l).port = s.port ∧ (s.handOver k l).loader = s.loader ∧
    (s.handOver k l).time = s.time ∧ (s.handOver k l).cfg = s.cfg ∧
    (s.handOver k l).lines = s.lines ∧ (s.handOver k l).muster = s.muster ∧
    (s.handOver k l).screen = s.screen ∧ (s.handOver k l).station = s.station := by
  unfold State.handOver
  repeat' split
  all_goals simp

@[simp] theorem State.setOwn_frame (s : State) (k : Fin 2) (l : List OwnLine) :
    (s.setOwn k l).pending = s.pending ∧ (s.setOwn k l).free = s.free ∧
    (s.setOwn k l).port = s.port ∧ (s.setOwn k l).loader = s.loader ∧
    (s.setOwn k l).time = s.time ∧ (s.setOwn k l).cfg = s.cfg ∧ (s.setOwn k l).lines = s.lines ∧
    (s.setOwn k l).muster = s.muster ∧ (s.setOwn k l).screen = s.screen ∧
    (s.setOwn k l).station = s.station := by
  unfold State.setOwn
  repeat' split
  all_goals simp

@[simp] theorem State.ownLineAnswer_frame (s : State) (k : Fin 2) (l : Nat) (d : Option LineData) :
    (s.ownLineAnswer k l d).pending = s.pending ∧ (s.ownLineAnswer k l d).free = s.free ∧
    (s.ownLineAnswer k l d).port = s.port ∧ (s.ownLineAnswer k l d).loader = s.loader ∧
    (s.ownLineAnswer k l d).time = s.time ∧ (s.ownLineAnswer k l d).cfg = s.cfg ∧
    (s.ownLineAnswer k l d).lines = s.lines ∧ (s.ownLineAnswer k l d).muster = s.muster ∧
    (s.ownLineAnswer k l d).screen = s.screen ∧ (s.ownLineAnswer k l d).station = s.station := by
  unfold State.ownLineAnswer
  repeat' split
  all_goals simp

@[simp] theorem State.timeout_frame (s : State) (r : MspRef) :
    (s.timeout r).pending = s.pending ∧ (s.timeout r).free = s.free ∧ (s.timeout r).port = s.port ∧
    (s.timeout r).loader = s.loader ∧ (s.timeout r).time = s.time ∧ (s.timeout r).cfg = s.cfg ∧
    (s.timeout r).lines = s.lines ∧ (s.timeout r).muster = s.muster ∧
    (s.timeout r).station = s.station := by
  unfold State.timeout
  repeat' split
  all_goals simp

@[simp] theorem State.issueRead_frame (s : State) (b : Bool) :
    (s.issueRead b).pending = s.pending ∧ (s.issueRead b).free = s.free ∧
    (s.issueRead b).loader = s.loader ∧ (s.issueRead b).time = s.time ∧
    (s.issueRead b).cfg = s.cfg ∧ (s.issueRead b).lines = s.lines ∧
    (s.issueRead b).muster = s.muster ∧ (s.issueRead b).screen = s.screen ∧
    (s.issueRead b).station = s.station ∧ (s.issueRead b).route = s.route ∧
    (s.issueRead b).prog = s.prog ∧ (s.issueRead b).cabin = s.cabin ∧ (s.issueRead b).cmd = s.cmd ∧
    (s.issueRead b).notice = s.notice := by
  unfold State.issueRead
  repeat' split
  all_goals simp

@[simp] theorem State.issuePwq_frame (s : State) :
    (s.issuePwq).pending = s.pending ∧ (s.issuePwq).free = s.free ∧
    (s.issuePwq).loader = s.loader ∧ (s.issuePwq).time = s.time ∧ (s.issuePwq).cfg = s.cfg ∧
    (s.issuePwq).lines = s.lines ∧ (s.issuePwq).muster = s.muster ∧
    (s.issuePwq).screen = s.screen ∧ (s.issuePwq).station = s.station ∧
    (s.issuePwq).route = s.route ∧ (s.issuePwq).prog = s.prog ∧ (s.issuePwq).cabin = s.cabin ∧
    (s.issuePwq).cmd = s.cmd ∧ (s.issuePwq).notice = s.notice := by
  unfold State.issuePwq
  repeat' split
  all_goals simp

@[simp] theorem State.issueIwq_frame (s : State) :
    (s.issueIwq).pending = s.pending ∧ (s.issueIwq).free = s.free ∧
    (s.issueIwq).loader = s.loader ∧ (s.issueIwq).time = s.time ∧ (s.issueIwq).cfg = s.cfg ∧
    (s.issueIwq).lines = s.lines ∧ (s.issueIwq).muster = s.muster ∧
    (s.issueIwq).screen = s.screen ∧ (s.issueIwq).station = s.station ∧
    (s.issueIwq).route = s.route ∧ (s.issueIwq).prog = s.prog ∧ (s.issueIwq).cabin = s.cabin ∧
    (s.issueIwq).cmd = s.cmd ∧ (s.issueIwq).notice = s.notice := by
  unfold State.issueIwq
  repeat' split
  all_goals simp

@[simp] theorem State.issueOwnLine_frame (s : State) (k : Fin 2) :
    (s.issueOwnLine k).pending = s.pending ∧ (s.issueOwnLine k).free = s.free ∧
    (s.issueOwnLine k).loader = s.loader ∧ (s.issueOwnLine k).time = s.time ∧
    (s.issueOwnLine k).cfg = s.cfg ∧ (s.issueOwnLine k).lines = s.lines ∧
    (s.issueOwnLine k).muster = s.muster ∧ (s.issueOwnLine k).screen = s.screen ∧
    (s.issueOwnLine k).station = s.station ∧ (s.issueOwnLine k).route = s.route ∧
    (s.issueOwnLine k).prog = s.prog ∧ (s.issueOwnLine k).cabin = s.cabin ∧
    (s.issueOwnLine k).cmd = s.cmd ∧ (s.issueOwnLine k).notice = s.notice := by
  unfold State.issueOwnLine
  repeat' split
  all_goals simp

@[simp] theorem State.issueOwn_frame (s : State) :
    (s.issueOwn).pending = s.pending ∧ (s.issueOwn).free = s.free ∧
    (s.issueOwn).loader = s.loader ∧ (s.issueOwn).time = s.time ∧ (s.issueOwn).cfg = s.cfg ∧
    (s.issueOwn).lines = s.lines ∧ (s.issueOwn).muster = s.muster ∧
    (s.issueOwn).screen = s.screen ∧ (s.issueOwn).station = s.station ∧
    (s.issueOwn).route = s.route ∧ (s.issueOwn).prog = s.prog ∧ (s.issueOwn).cabin = s.cabin ∧
    (s.issueOwn).cmd = s.cmd ∧ (s.issueOwn).notice = s.notice := by
  unfold State.issueOwn
  repeat' split
  all_goals simp

@[simp] theorem State.issueFrom_frame (s : State) (c : Source) :
    (s.issueFrom c).pending = s.pending ∧ (s.issueFrom c).free = s.free ∧
    (s.issueFrom c).loader = s.loader ∧ (s.issueFrom c).time = s.time ∧
    (s.issueFrom c).cfg = s.cfg ∧ (s.issueFrom c).lines = s.lines ∧
    (s.issueFrom c).muster = s.muster ∧ (s.issueFrom c).screen = s.screen ∧
    (s.issueFrom c).station = s.station ∧ (s.issueFrom c).route = s.route ∧
    (s.issueFrom c).prog = s.prog ∧ (s.issueFrom c).cabin = s.cabin ∧ (s.issueFrom c).cmd = s.cmd ∧
    (s.issueFrom c).notice = s.notice := by
  unfold State.issueFrom
  repeat' split
  all_goals simp

@[simp] theorem State.grant_frame (s : State) :
    (s.grant).pending = s.pending ∧ (s.grant).free = s.free ∧ (s.grant).loader = s.loader ∧
    (s.grant).time = s.time ∧ (s.grant).cfg = s.cfg ∧ (s.grant).lines = s.lines ∧
    (s.grant).muster = s.muster ∧ (s.grant).screen = s.screen ∧ (s.grant).station = s.station ∧
    (s.grant).route = s.route ∧ (s.grant).prog = s.prog ∧ (s.grant).cabin = s.cabin ∧
    (s.grant).cmd = s.cmd ∧ (s.grant).notice = s.notice := by
  unfold State.grant
  repeat' split
  all_goals simp

@[simp] theorem State.placeHeld_frame (s : State) :
    (s.placeHeld).pending = s.pending ∧ (s.placeHeld).free = s.free ∧ (s.placeHeld).port = s.port ∧
    (s.placeHeld).loader = s.loader ∧ (s.placeHeld).time = s.time ∧ (s.placeHeld).cfg = s.cfg ∧
    (s.placeHeld).lines = s.lines ∧ (s.placeHeld).muster = s.muster ∧
    (s.placeHeld).screen = s.screen ∧ (s.placeHeld).station = s.station ∧
    (s.placeHeld).route = s.route ∧ (s.placeHeld).prog = s.prog ∧ (s.placeHeld).cabin = s.cabin ∧
    (s.placeHeld).notice = s.notice := by
  unfold State.placeHeld
  repeat' split
  all_goals simp

@[simp] theorem State.bellChange_frame (s : State) (b : Bool) :
    (s.bellChange b).pending = s.pending ∧ (s.bellChange b).port = s.port ∧
    (s.bellChange b).loader = s.loader ∧ (s.bellChange b).time = s.time ∧
    (s.bellChange b).cfg = s.cfg ∧ (s.bellChange b).path = s.path ∧
    (s.bellChange b).lines = s.lines ∧ (s.bellChange b).station = s.station ∧
    (s.bellChange b).prog = s.prog := by
  unfold State.bellChange
  repeat' split
  all_goals simp

@[simp] theorem State.deglitch_frame (s : State) (l : InputLine) :
    (s.deglitch l).pending = s.pending ∧ (s.deglitch l).port = s.port ∧
    (s.deglitch l).loader = s.loader ∧ (s.deglitch l).time = s.time ∧ (s.deglitch l).cfg = s.cfg ∧
    (s.deglitch l).path = s.path ∧ (s.deglitch l).station = s.station ∧
    (s.deglitch l).prog = s.prog := by
  unfold State.deglitch
  dsimp only
  repeat' split
  all_goals simp

@[simp] theorem State.levelChange_frame (s : State) (l : InputLine) (b : Bool) :
    (s.levelChange l b).pending = s.pending ∧ (s.levelChange l b).port = s.port ∧
    (s.levelChange l b).loader = s.loader ∧ (s.levelChange l b).time = s.time ∧
    (s.levelChange l b).cfg = s.cfg ∧ (s.levelChange l b).path = s.path ∧
    (s.levelChange l b).lines = s.lines ∧ (s.levelChange l b).station = s.station ∧
    (s.levelChange l b).prog = s.prog := by
  unfold State.levelChange
  repeat' split
  all_goals simp

@[simp] theorem State.debounce_frame (s : State) (l : InputLine) :
    (s.debounce l).pending = s.pending ∧ (s.debounce l).port = s.port ∧
    (s.debounce l).loader = s.loader ∧ (s.debounce l).time = s.time ∧ (s.debounce l).cfg = s.cfg ∧
    (s.debounce l).path = s.path ∧ (s.debounce l).station = s.station ∧
    (s.debounce l).prog = s.prog := by
  unfold State.debounce
  dsimp only
  repeat' split
  all_goals simp

@[simp] theorem State.uptimeTick_frame (s : State) :
    (s.uptimeTick).pending = s.pending ∧ (s.uptimeTick).free = s.free ∧
    (s.uptimeTick).port = s.port ∧ (s.uptimeTick).loader = s.loader ∧ (s.uptimeTick).cfg = s.cfg ∧
    (s.uptimeTick).path = s.path ∧ (s.uptimeTick).lines = s.lines ∧
    (s.uptimeTick).muster = s.muster ∧ (s.uptimeTick).screen = s.screen ∧
    (s.uptimeTick).station = s.station ∧ (s.uptimeTick).route = s.route ∧
    (s.uptimeTick).prog = s.prog ∧ (s.uptimeTick).cmd = s.cmd := by
  unfold State.uptimeTick
  repeat' split
  all_goals simp

@[simp] theorem State.msTick_frame (s : State) :
    (s.msTick).pending = s.pending ∧ (s.msTick).free = s.free ∧ (s.msTick).port = s.port ∧
    (s.msTick).cfg = s.cfg ∧ (s.msTick).path = s.path ∧ (s.msTick).station = s.station ∧
    (s.msTick).route = s.route ∧ (s.msTick).cabin = s.cabin ∧ (s.msTick).notice = s.notice := by
  unfold State.msTick
  dsimp only
  repeat' split
  all_goals simp

@[simp] theorem State.tick_frame (s : State) :
    (s.tick).pending = s.pending ∧ (s.tick).free = s.free ∧ (s.tick).port = s.port ∧
    (s.tick).cfg = s.cfg ∧ (s.tick).station = s.station ∧ (s.tick).route = s.route ∧
    (s.tick).cabin.cabins = s.cabin.cabins ∧ (s.tick).cabin.pend = s.cabin.pend ∧
    (s.tick).cabin.badHome = s.cabin.badHome ∧ (s.tick).notice = s.notice := by
  unfold State.tick
  dsimp only
  repeat' split
  all_goals simp

end Sys2Proof.Machine
end

