-- ==== Sys2Proof/Laws/Status.lean ====
section
/-! SUPPORT. What the status block's bookkeeping can do: it changes dirty marks and the data of waiting
status writes, and nothing else. -/

namespace Sys2Proof.Machine

open Sys2Proof

theorem SameWrite.refl (x : IwqEntry) : SameWrite x x := ⟨rfl, rfl, rfl, fun _ => rfl⟩

theorem sameWrites_refl (l : List IwqEntry) : List.Forall₂ SameWrite l l := by
  induction l with
  | nil => exact .nil
  | cons x l ih => exact .cons (SameWrite.refl x) ih

theorem SameWrite.trans {x y z : IwqEntry} (h : SameWrite x y) (g : SameWrite y z) : SameWrite x z :=
  ⟨h.1.trans g.1, h.2.1.trans g.2.1, h.2.2.1.trans g.2.2.1,
    fun n => (h.2.2.2 n).trans (g.2.2.2 fun i => h.1 ▸ n i)⟩

theorem sameWrites_trans {a b c : List IwqEntry} (h : List.Forall₂ SameWrite a b)
    (g : List.Forall₂ SameWrite b c) : List.Forall₂ SameWrite a c := by
  induction h generalizing c with
  | nil => cases g; exact .nil
  | cons h _ ih => cases g with
    | cons g gs => exact .cons (h.trans g) (ih gs)

theorem mergeEntry_same (i : Fin 7) (d : LineData) (e : IwqEntry) : SameWrite e (mergeEntry i d e) := by
  unfold mergeEntry
  split
  · rename_i h
    refine ⟨rfl, rfl, rfl, fun n => absurd ?_ (n i)⟩
    simpa [IwqEntry.isStatus] using h
  · exact SameWrite.refl e

theorem mergeEntries_same (i : Fin 7) (d : LineData) (l : List IwqEntry) :
    List.Forall₂ SameWrite l (l.map (mergeEntry i d)) := by
  induction l with
  | nil => exact .nil
  | cons e l ih => exact .cons (mergeEntry_same i d e) ih

theorem StatusFollows.refl (u : State) : StatusFollows u u := ⟨rfl, sameWrites_refl _, fun _ h => h⟩

theorem StatusFollows.trans {u v t : State} (h : StatusFollows u v) (g : StatusFollows v t) :
    StatusFollows u t := by
  refine ⟨?_, sameWrites_trans h.2.1 g.2.1, fun i k => g.2.2 i (h.2.2 i k)⟩
  rw [g.1, h.1]

theorem mergeStatus_eq (p : Path) (i : Fin 7) (d : LineData) :
    ∃ l, p.mergeStatus i d = { p with iwq := l } ∧ List.Forall₂ SameWrite p.iwq l := by
  unfold Path.mergeStatus
  split
  · refine ⟨_, rfl, ?_⟩
    cases p.iwq with
    | nil => exact .nil
    | cons e l => exact .cons (SameWrite.refl e) (mergeEntries_same i d l)
  · exact ⟨_, rfl, mergeEntries_same i d _⟩

/-- A change shown on one line does only the status block's bookkeeping (R157). -/
theorem showLine_follows (mark : Bool) (d : LineData) (s : State) (i : Fin 7) :
    StatusFollows s (State.showLine mark d s i) := by
  unfold State.showLine
  split
  · obtain ⟨l, e, h⟩ := mergeStatus_eq s.path i d
    rw [e]
    exact ⟨rfl, h, fun _ k => k⟩
  · split
    · refine ⟨rfl, sameWrites_refl _, fun j k => ?_⟩
      by_cases e : i = j
      · subst e; simp
      · have : i.val ≠ j.val := fun v => e (Fin.ext v)
        simpa [Vector.getElem_set, this] using k
    · exact StatusFollows.refl s

/-- The bookkeeping of a command does only the status block's bookkeeping (R157). -/
theorem settleWith_follows (mark : Bool) (s u : State) : StatusFollows u (settleWith mark s u) := by
  unfold settleWith
  split
  · generalize changedLines s u = l
    suffices h : ∀ v, StatusFollows u v →
        StatusFollows u (l.foldl (fun t i => State.showLine mark (u.statusLine i) t i) v) from
      h u (StatusFollows.refl u)
    induction l with
    | nil => exact fun v h => h
    | cons i l ih => exact fun v h => ih _ (h.trans (showLine_follows mark _ v i))
  · exact StatusFollows.refl u

theorem settle_follows (s u : State) : StatusFollows u (settle s u) := settleWith_follows true s u

/-- A command whose changes the status block does not show leaves the bookkeeping alone. -/
theorem settle_same {s u : State} (h : ∀ i, s.statusLine i = u.statusLine i) : settle s u = u := by
  have : changedLines s u = [] := by simp [changedLines, h]
  simp [settle, settleWith, this]

/-- What the status block shows (R157, R169). -/
theorem statusLine_congr {s u : State} (i : Fin 7) (loader : s.loader = u.loader) (muster : s.muster = u.muster)
    (screens : s.screen.screens = u.screen.screens) (station : s.station = u.station)
    (route : s.route = u.route) (prog : s.prog = u.prog) (badHome : s.cabin.badHome = u.cabin.badHome)
    (cmd : s.cmd = u.cmd) (memFault : s.path.memFault = u.path.memFault)
    (notice : s.notice = u.notice) : s.statusLine i = u.statusLine i := by
  obtain ⟨_, _, _, loader1, _, _, ⟨_, _, _, _, _, _, _, _, _, _, fault1⟩, _, muster1, ⟨screens1, _, _⟩, station1, route1, prog1, ⟨_, _, home1⟩,
    cmd1, notice1⟩ := s
  obtain ⟨_, _, _, loader2, _, _, ⟨_, _, _, _, _, _, _, _, _, _, fault2⟩, _, muster2, ⟨screens2, _, _⟩, station2, route2, prog2, ⟨_, _, home2⟩,
    cmd2, notice2⟩ := u
  dsimp only at loader muster screens station route prog badHome cmd memFault notice
  subst loader muster screens station route prog badHome cmd memFault notice
  rfl

end Sys2Proof.Machine
end

