-- ==== Sys2Proof/Laws/Ops.lean ====
section
/-! SUPPORT. What each shared operation can do, said once: the notice queue, the result word, the work list,
the pending set, the programme list, the filters and counters. -/

namespace Sys2Proof.Machine

open Sys2Proof

/-! ## The notice queue (R153) -/

/-- A notice joins a queue that has room. -/
theorem NoticeUnit.push_room {u : NoticeUnit} (n : Notice) (h : u.queue.length < Config.queueSize) :
    u.push n = { u with queue := u.queue ++ [n] } := by
  simp [NoticeUnit.push, h]

/-- Whatever becomes of a notice, only the queue and its loss counter change. -/
theorem NoticeUnit.push_frame (u : NoticeUnit) (n : Notice) :
    u.push n = { u with queue := (u.push n).queue, lost := (u.push n).lost } := by
  unfold NoticeUnit.push
  split_ifs <;> rfl

/-- A notice never makes a queue longer than it may be. -/
theorem NoticeUnit.push_length {u : NoticeUnit} (n : Notice) (h : u.queue.length ≤ Config.queueSize) :
    (u.push n).queue.length ≤ Config.queueSize := by
  unfold NoticeUnit.push
  split_ifs with h1 h2
  · simp; omega
  · simp only [Bool.and_eq_true, List.any_eq_true] at h2
    obtain ⟨-, m, hm, hr⟩ := h2
    have := List.length_eraseP_of_mem (p := fun m : Notice => !m.urgent) hm hr
    have : 0 < u.queue.length := List.length_pos_of_mem hm
    simp
    omega
  · exact h

/-- An URGENT notice in the queue stays, and what stood before it loses ROUTINE notices at most. -/
theorem NoticeUnit.push_keeps {u : NoticeUnit} {m : Notice} {older newer base : List Notice} (n : Notice)
    (hm : m.urgent = true) (hs : older.Sublist base) (hq : u.queue = older ++ m :: newer) :
    ∃ older' newer', older'.Sublist base ∧ (u.push n).queue = older' ++ m :: newer' := by
  unfold NoticeUnit.push
  split_ifs with h1 h2
  · exact ⟨older, newer ++ [n], hs, by simp [hq]⟩
  · by_cases h : older.any fun x => !x.urgent
    · simp only [List.any_eq_true] at h
      obtain ⟨x, hx, hr⟩ := h
      refine ⟨older.eraseP fun x => !x.urgent, newer ++ [n], List.eraseP_sublist.trans hs, ?_⟩
      have := List.eraseP_append_left (p := fun x : Notice => !x.urgent) hr (m :: newer) hx
      simp [hq, this]
    · refine ⟨older, (newer.eraseP fun x => !x.urgent) ++ [n], hs, ?_⟩
      have : ∀ b ∈ older, ¬ (!b.urgent) = true := by simpa using h
      simp [hq, List.eraseP_append_right _ this, hm]
  · exact ⟨older, newer, hs, hq⟩

theorem foldl_push_keeps (l : List Notice) {u : NoticeUnit} {m : Notice} {older newer base : List Notice}
    (hm : m.urgent = true) (hs : older.Sublist base) (hq : u.queue = older ++ m :: newer) :
    ∃ older' newer', older'.Sublist base ∧ (l.foldl NoticeUnit.push u).queue = older' ++ m :: newer' := by
  induction l generalizing u older newer with
  | nil => exact ⟨older, newer, hs, hq⟩
  | cons n l ih =>
    obtain ⟨o, w, h1, h2⟩ := NoticeUnit.push_keeps n hm hs hq
    exact ih h1 h2

theorem foldl_push_frame (l : List Notice) (u : NoticeUnit) :
    l.foldl NoticeUnit.push u =
      { u with queue := (l.foldl NoticeUnit.push u).queue, lost := (l.foldl NoticeUnit.push u).lost } := by
  induction l generalizing u with
  | nil => rfl
  | cons n l ih =>
    rw [List.foldl_cons, ih, NoticeUnit.push_frame]

theorem foldl_push_length (l : List Notice) {u : NoticeUnit} (h : u.queue.length ≤ Config.queueSize) :
    (l.foldl NoticeUnit.push u).queue.length ≤ Config.queueSize := by
  induction l generalizing u with
  | nil => exact h
  | cons n l ih => exact ih (NoticeUnit.push_length n h)

/-! ## The result word (R148, R149) -/

/-- A command's result is placed at once where the IWQ has a free entry. -/
theorem endCommand_room {s : State} (r : CmdResult) (h : s.path.iwq.length < Config.iwqSize) :
    s.endCommand r = s.placeResult r := by
  have : 0 < s.path.iwqFree := by simp only [Path.iwqFree]; omega
  simp [State.endCommand, this]

/-- A command's result is held where the IWQ is full. -/
theorem endCommand_full {s : State} (r : CmdResult) (h : Config.iwqSize ≤ s.path.iwq.length) :
    s.endCommand r = { s with cmd := { s.cmd with held := some r } } := by
  have : ¬ 0 < s.path.iwqFree := by simp only [Path.iwqFree]; omega
  simp [State.endCommand, this]

/-! ## The work list (R97) -/

theorem mem_appendWork {w : List Nat} {i j : Nat} : j ∈ appendWork w i ↔ j ∈ w ∨ j = i := by
  unfold appendWork
  split_ifs with h
  · constructor
    · exact .inl
    · rintro (h' | rfl) <;> assumption
  · simp

theorem nodup_appendWork {w : List Nat} (i : Nat) (h : w.Nodup) : (appendWork w i).Nodup := by
  unfold appendWork
  split_ifs with h'
  · exact h
  · exact List.nodup_append.2 ⟨h, by simp, by simpa using fun a ha (e : a = i) => h' (e ▸ ha)⟩

theorem mem_foldl_appendWork {l w : List Nat} {j : Nat} : j ∈ l.foldl appendWork w ↔ j ∈ w ∨ j ∈ l := by
  induction l generalizing w with
  | nil => simp
  | cons i l ih => rw [List.foldl_cons, ih, mem_appendWork, List.mem_cons, or_assoc]

theorem nodup_foldl_appendWork (l : List Nat) {w : List Nat} (h : w.Nodup) : (l.foldl appendWork w).Nodup := by
  induction l generalizing w with
  | nil => exact h
  | cons i l ih => exact ih (nodup_appendWork i h)

/-- Screens that stand on the list are not appended again. -/
theorem foldl_appendWork_same {l w : List Nat} (h : ∀ i ∈ l, i ∈ w) : l.foldl appendWork w = w := by
  induction l with
  | nil => rfl
  | cons i l ih =>
    rw [List.foldl_cons, show appendWork w i = w by simp [appendWork, h i (by simp)]]
    exact ih fun j hj => h j (by simp [hj])

theorem foldl_appendWork_twice (l w : List Nat) :
    l.foldl appendWork (l.foldl appendWork w) = l.foldl appendWork w :=
  foldl_appendWork_same fun _ h => mem_foldl_appendWork.2 (.inr h)

theorem mem_arrowScreens {s : State} {i : Nat} (h : i ∈ s.arrowScreens) : i < s.screen.screens.length := by
  simp only [State.arrowScreens, List.mem_filter, List.mem_range] at h
  exact h.1

theorem nodup_arrowScreens (s : State) : s.arrowScreens.Nodup := List.nodup_range.filter _

/-! ## The pending set (R142) -/

theorem mem_insertPend {cabins : List Cabin} {i j : Nat} {l : List Nat} :
    j ∈ insertPend cabins i l ↔ j = i ∨ j ∈ l := by
  induction l with
  | nil => simp [insertPend]
  | cons k l ih =>
    unfold insertPend
    split_ifs
    · simp
    · simp only [List.mem_cons, ih]
      exact or_left_comm

theorem nodup_insertPend {cabins : List Cabin} {i : Nat} {l : List Nat} (h : l.Nodup) (hi : i ∉ l) :
    (insertPend cabins i l).Nodup := by
  induction l with
  | nil => simp [insertPend]
  | cons k l ih =>
    unfold insertPend
    simp only [List.nodup_cons, List.mem_cons, not_or] at h hi
    split_ifs
    · exact List.nodup_cons.2 ⟨by simpa using hi, List.nodup_cons.2 h⟩
    · exact List.nodup_cons.2 ⟨fun hk => (mem_insertPend.1 hk).elim (fun e => hi.1 e.symm) h.1, ih h.2 hi.2⟩

/-- A cabin's entry is replaced, and the set holds it or not as its class says; every other cabin stands. -/
theorem CabinUnit.mem_place {u : CabinUnit} {i j : Nat} {c : Cabin} :
    j ∈ (u.place i c).pend ↔ (j = i ∧ c.pend ≠ .none) ∨ (j ≠ i ∧ j ∈ u.pend) := by
  unfold CabinUnit.place
  by_cases h : c.pend = .none
  · simp [h, and_comm]
  · simp only [h, if_false, mem_insertPend]
    by_cases e : j = i <;> simp [e, h]

theorem CabinUnit.nodup_place {u : CabinUnit} {i : Nat} {c : Cabin} (h : u.pend.Nodup) :
    (u.place i c).pend.Nodup := by
  unfold CabinUnit.place
  have := h.filter fun j => decide (j ≠ i)
  split
  · exact this
  · exact nodup_insertPend this (by simp)

@[simp] theorem CabinUnit.place_cabins (u : CabinUnit) (i : Nat) (c : Cabin) :
    (u.place i c).cabins = u.cabins.set i c := rfl

@[simp] theorem CabinUnit.place_badHome (u : CabinUnit) (i : Nat) (c : Cabin) :
    (u.place i c).badHome = u.badHome := rfl

/-- A cabin put into an ordered set that does not hold it leaves the set ordered. -/
theorem insertPend_ordered {cabins : List Cabin} {i : Nat} {l : List Nat}
    (h : l.Pairwise fun a b => pendBefore cabins a b = true) (hi : i ∉ l) (hp : i < cabins.length)
    (hl : ∀ j ∈ l, j < cabins.length) :
    (insertPend cabins i l).Pairwise fun a b => pendBefore cabins a b = true := by
  induction l with
  | nil => simp [insertPend]
  | cons y l ih =>
    unfold insertPend
    rw [List.pairwise_cons] at h
    simp only [List.mem_cons, not_or] at hi
    have hy := hl y (by simp)
    split_ifs with hb
    · refine List.pairwise_cons.2 ⟨fun x hx => ?_, List.pairwise_cons.2 h⟩
      rcases List.mem_cons.1 hx with rfl | hx
      · exact hb
      · have hx' := h.1 x hx
        have hxl := hl x (by simp [hx])
        simp only [pendBefore, List.getElem?_eq_getElem hp, List.getElem?_eq_getElem hy,
          List.getElem?_eq_getElem hxl, decide_eq_true_eq] at hb hx' ⊢
        omega
    · refine List.pairwise_cons.2 ⟨fun x hx => ?_, ih h.2 hi.2 fun j hj => hl j (by simp [hj])⟩
      rcases mem_insertPend.1 hx with rfl | hx
      · simp only [pendBefore, List.getElem?_eq_getElem hp, List.getElem?_eq_getElem hy,
          decide_eq_true_eq] at hb ⊢
        omega
      · exact h.1 x hx

/-! ## The programme list (R119) -/

theorem mem_insertListed {e x : ListEntry} {l : List ListEntry} : x ∈ insertListed e l ↔ x = e ∨ x ∈ l := by
  induction l with
  | nil => simp [insertListed]
  | cons y l ih =>
    unfold insertListed
    split_ifs
    · simp
    · simp only [List.mem_cons, ih]
      exact or_left_comm

theorem listedBefore_trans {a b c : ListEntry} (h : listedBefore a b = true) (g : listedBefore b c = true) :
    listedBefore a c = true := by
  simp only [listedBefore, decide_eq_true_eq] at *
  omega

theorem listedBefore_total {a b : ListEntry} (h : a.index ≠ b.index) (g : ¬ listedBefore a b = true) :
    listedBefore b a = true := by
  simp only [listedBefore, decide_eq_true_eq] at *
  omega

/-- An entry put into an ordered list that does not hold its index leaves it ordered. -/
theorem insertListed_ordered {e : ListEntry} {l : List ListEntry}
    (h : l.Pairwise fun a b => listedBefore a b = true) (hi : ∀ x ∈ l, x.index ≠ e.index) :
    (insertListed e l).Pairwise fun a b => listedBefore a b = true := by
  induction l with
  | nil => simp [insertListed]
  | cons y l ih =>
    unfold insertListed
    rw [List.pairwise_cons] at h
    split_ifs with hb
    · refine List.pairwise_cons.2 ⟨fun x hx => ?_, List.pairwise_cons.2 h⟩
      rcases List.mem_cons.1 hx with rfl | hx
      · exact hb
      · exact listedBefore_trans hb (h.1 x hx)
    · refine List.pairwise_cons.2 ⟨fun x hx => ?_, ih h.2 fun x hx => hi x (by simp [hx])⟩
      rcases mem_insertListed.1 hx with rfl | hx
      · exact listedBefore_total (fun e => hi y (by simp) e.symm) hb
      · exact h.1 x hx

end Sys2Proof.Machine
end

