-- ==== Sys2Proof/Laws/Change.lean ====
section
/-! SUPPORT. What a change of muster state does to every block (R68, R69). -/

namespace Sys2Proof.Machine

open Sys2Proof

/-! ## URGENT causes (R140, R141) -/

/-- A cabin after an URGENT cause, before the notices of its moment. -/
def UrgentSoon (now : Word) (c d : Cabin) : Prop :=
  d.home = c.home ∧ d.lastRefresh = c.lastRefresh ∧ d.lastWrite = c.lastWrite ∧ d.pend = .urgent ∧
  (c.pend ≠ .urgent → d.eligible = now) ∧ (c.pend = .urgent → d = c) ∧
  d.notified = (c.notified && decide (c.pend ≠ .routine))

theorem urgentCause_length (u : CabinUnit) (now : Word) (i : Nat) :
    (u.urgentCause now i).cabins.length = u.cabins.length := by
  unfold CabinUnit.urgentCause
  repeat' split
  all_goals simp

/-- An URGENT cause changes its own cabin alone. -/
theorem urgentCause_other (u : CabinUnit) (now : Word) {i j : Nat} (h : j ≠ i) :
    (u.urgentCause now i).cabins[j]? = u.cabins[j]? := by
  unfold CabinUnit.urgentCause
  repeat' split
  all_goals simp [h.symm]

theorem urgentCause_own {u : CabinUnit} (now : Word) {i : Nat} {c : Cabin} (h : u.cabins[i]? = some c) :
    ∃ d, (u.urgentCause now i).cabins[i]? = some d ∧ UrgentSoon now c d := by
  have hl : i < u.cabins.length := (List.getElem?_eq_some_iff.1 h).1
  cases hp : c.pend with
  | urgent =>
    exact ⟨c, by simp [CabinUnit.urgentCause, h, hp], rfl, rfl, rfl, hp, fun n => absurd hp n, fun _ => rfl,
      by simp [hp]⟩
  | none =>
    refine ⟨{ c with pend := .urgent, eligible := now }, by simp only [CabinUnit.urgentCause, h, hp]; simp [hl], ?_⟩
    exact ⟨rfl, rfl, rfl, rfl, fun _ => rfl, fun n => by simp [hp] at n, by simp [hp]⟩
  | routine =>
    refine ⟨{ c with pend := .urgent, eligible := now, notified := false },
      by simp only [CabinUnit.urgentCause, h, hp]; simp [hl], ?_⟩
    exact ⟨rfl, rfl, rfl, rfl, fun _ => rfl, fun n => by simp [hp] at n, by simp [hp]⟩

theorem urgentCause_badHome (u : CabinUnit) (now : Word) (i : Nat) :
    (u.urgentCause now i).badHome = u.badHome := by
  unfold CabinUnit.urgentCause
  repeat' split
  all_goals rfl

/-- The URGENT causes of one event: the picked cabins have theirs, and the others stand. -/
theorem urgentCauses_spec (u : CabinUnit) (now : Word) (p : Cabin → Bool) :
    (u.urgentCauses now p).cabins.length = u.cabins.length ∧
    (u.urgentCauses now p).badHome = u.badHome ∧
    ∀ (i : Nat) (c : Cabin), u.cabins[i]? = some c →
      ∃ d, (u.urgentCauses now p).cabins[i]? = some d ∧
        (p c = true → UrgentSoon now c d) ∧ (p c = false → d = c) := by
  let f : CabinUnit → Nat → CabinUnit := fun v i =>
    match u.cabins[i]? with
    | some c => if p c then v.urgentCause now i else v
    | none => v
  suffices h : ∀ (n : Nat) (v : CabinUnit), v = (List.range n).foldl f u →
      v.cabins.length = u.cabins.length ∧ v.badHome = u.badHome ∧
      (∀ (i : Nat), n ≤ i → v.cabins[i]? = u.cabins[i]?) ∧
      ∀ (i : Nat) (c : Cabin), i < n → u.cabins[i]? = some c → ∃ d, v.cabins[i]? = some d ∧
        (p c = true → UrgentSoon now c d) ∧ (p c = false → d = c) by
    obtain ⟨h1, h2, -, h4⟩ := h u.cabins.length _ rfl
    exact ⟨h1, h2, fun i c hc => h4 i c (List.getElem?_eq_some_iff.1 hc).1 hc⟩
  intro n
  induction n with
  | zero => rintro v rfl; simp
  | succ n ih =>
    rintro v rfl
    obtain ⟨h1, h2, h3, h4⟩ := ih _ rfl
    rw [List.range_succ, List.foldl_append]
    generalize (List.range n).foldl f u = w at h1 h2 h3 h4
    simp only [List.foldl_cons, List.foldl_nil, f]
    cases hc : u.cabins[n]? with
    | none =>
      refine ⟨h1, h2, fun i hi => h3 i (by omega), fun i c hi e => ?_⟩
      have : i ≠ n := by rintro rfl; simp [hc] at e
      exact h4 i c (by omega) e
    | some c =>
      have hw : w.cabins[n]? = some c := by rw [h3 n le_rfl, hc]
      by_cases hp : p c = true
      · simp only [hp, if_true]
        refine ⟨by rw [urgentCause_length, h1], by rw [urgentCause_badHome, h2], fun i hi => ?_,
          fun i e hi he => ?_⟩
        · rw [urgentCause_other _ _ (by omega), h3 i (by omega)]
        · by_cases hn : i = n
          · subst hn
            obtain rfl : c = e := by simpa [hc] using he
            obtain ⟨d, hd, hs⟩ := urgentCause_own now hw
            exact ⟨d, hd, fun _ => hs, fun hf => by simp [hp] at hf⟩
          · rw [urgentCause_other _ _ hn]
            exact h4 i e (by omega) he
      · simp only [hp]
        refine ⟨h1, h2, fun i hi => h3 i (by omega), fun i e hi he => ?_⟩
        by_cases hn : i = n
        · subst hn
          obtain rfl : c = e := by simpa [hc] using he
          exact ⟨c, hw, fun hf => absurd hf hp, fun _ => rfl⟩
        · exact h4 i e (by omega) he

/-- A cabin with an URGENT cause at this second is notified in the same moment. -/
theorem urgentNow_of_soon {now : Word} {c d : Cabin} (h : UrgentSoon now c d) :
    UrgentNow now c (if d.due now then { d with notified := true } else d) := by
  obtain ⟨h1, h2, h3, h4, h5, h6, -⟩ := h
  split_ifs with hd
  · refine ⟨h1, h2, h3, h4, fun hp => ⟨h5 hp, rfl⟩, fun hp => ?_⟩
    obtain rfl := h6 hp
    simp only [Cabin.due, Bool.and_eq_true] at hd
    simp [hd.1.2]
  · refine ⟨h1, h2, h3, h4, fun hp => ⟨h5 hp, ?_⟩, fun hp => ?_⟩
    · simpa [Cabin.due, h4, h5 hp] using hd
    · obtain rfl := h6 hp
      simp only [Cabin.due, hp] at hd
      cases hn : d.notified <;> simp_all

/-! ## The change (R68, R69) -/

theorem shutWindow_eq (s : State) :
    s.shutWindow = { s with
      cmd := { s.cmd with maint := none }
      route := { s.route with work := s.arrowScreens.foldl appendWork s.route.work } } := rfl

/-- The state after a change of muster state and the effects that R69 orders, before the notices that
follow MUSTER_STATE. -/
def changeCore (s : State) (m : MusterUnit) (o : Origin) (closes : Bool) : State :=
  let screens := s.screen.screens.map Screen.uncover
  let u : ScreenUnit := { s.screen with screens := screens }
  { s with
    muster := { m with shown := decide (m.state = .muster) && u.allCovered }
    screen := { u with mark := isAlert m.state && s.isReady && !u.allCovered }
    route := { s.route with work := s.arrowScreens.foldl appendWork s.route.work }
    cmd := { s.cmd with maint := if closes then none else s.cmd.maint }
    cabin := { s.cabin.urgentCauses s.time.uptime (fun _ => true) with
      cabins := (s.cabin.urgentCauses s.time.uptime fun _ => true).cabins.map fun c =>
        if c.due s.time.uptime then { c with notified := true } else c }
    notice := s.notice.push
      { kind := .musterState, urgent := true, subject := 0, detail := musterDetail m.state o
        epoch := m.epoch, stamp := s.time.uptime }
    free := s.free + 1 }

theorem arrowScreens_uncover (s : State) (u : ScreenUnit) (h : u.screens = s.screen.screens.map Screen.uncover) :
    State.arrowScreens { s with screen := u } = s.arrowScreens := by
  unfold State.arrowScreens
  simp only [h, List.length_map]
  apply List.filter_congr
  intro i _
  rw [List.getElem?_map]
  cases s.screen.screens[i]? <;> rfl

theorem reportMark (a r c : Bool) : (a && r && !(a && r && a && c)) = (a && r && !c) := by
  cases a <;> cases r <;> cases c <;> rfl

theorem isAlert_eq (m : MusterState) : (decide (m = .drill) || decide (m = .muster)) = isAlert m := by
  cases m <;> rfl

/-- The COVERAGE_COMPLETE notice is due as `coverageReport` says, with the mark that stands (R49). -/
theorem coverageNotices_eq (s : State) : s.coverageNotices = coverageReport s.screen.mark s := by
  simp [State.coverageNotices, coverageReport, State.reportDue, ScreenUnit.allCovered, State.mkNotice,
    ScreenUnit.coverageDetail, and_assoc]

/-- The report mark stays ARMED where the notice is not due (R49). -/
theorem clearReport_mark (s : State) :
    s.clearReport.screen.mark = (s.screen.mark && (coverageReport s.screen.mark s).isEmpty) := by
  rw [← coverageNotices_eq]
  unfold State.clearReport State.coverageNotices
  cases s.reportDue <;> simp

/-- The six orders of three lists are their permutations. -/
theorem arrange_perm (o : Fin 6) (x y z : List Notice) :
    ∃ a b c, [a, b, c].Perm [x, y, z] ∧ arrange o x y z = a ++ b ++ c := by
  unfold arrange
  have p2 (a b c : List Notice) : [a, c, b].Perm [a, b, c] := .cons a (.swap b c [])
  have p3 (a b c : List Notice) : [b, a, c].Perm [a, b, c] := .swap a b [c]
  split
  · exact ⟨x, y, z, .refl _, rfl⟩
  · exact ⟨x, z, y, p2 .., rfl⟩
  · exact ⟨y, x, z, p3 .., rfl⟩
  · exact ⟨y, z, x, (p2 ..).trans (p3 ..), rfl⟩
  · exact ⟨z, x, y, (p3 ..).trans (p2 ..), rfl⟩
  · exact ⟨z, y, x, (p3 ..).trans ((p2 ..).trans (p3 ..)), rfl⟩

theorem changeMuster_eq (s : State) (m : MusterUnit) (o : Origin) :
    let closes := decide (s.muster.state = .normal) && isAlert m.state && s.cmd.maint.isSome
    let u := changeCore s m o closes
    let closure : List Notice := if closes then
      [{ kind := .maintWindow, urgent := false, subject := 0, detail := 2, epoch := m.epoch, stamp := s.time.uptime }]
      else []
    s.changeMuster m o = u.handAll (arrange (Config.noticeOrder s.free) closure
      (coverageReport (isAlert m.state && s.isReady) u) (cabinNotices s u)) := by
  intro closes' u' closure'
  unfold State.changeMuster
  extract_lets s1 s2 closes s3 closure s4 coverage s5 s6 refresh s7
  have h3 : s3 = { s with
      muster := m, notice := s2.notice
      cmd := { s.cmd with maint := if closes then none else s.cmd.maint }
      route := { s.route with
        work := if closes then s.arrowScreens.foldl appendWork s.route.work else s.route.work } } := by
    simp only [s3]
    cases closes <;> rfl
  have h4 : s4.arrowScreens = s.arrowScreens := by
    simp only [s4, h3]
    exact arrowScreens_uncover s _ rfl
  have h7 : { s7 with free := s.free + 1 } = changeCore s m o closes := by
    have e5 : s5 = { s4.clearReport.driveShown with
        route := { s4.route with work := s.arrowScreens.foldl appendWork s4.route.work } } := by
      rw [← h4]; rfl
    have w : s.arrowScreens.foldl appendWork s4.route.work = s.arrowScreens.foldl appendWork s.route.work := by
      simp only [s4, h3]
      cases closes
      · rfl
      · exact foldl_appendWork_twice _ _
    rw [w] at e5
    have k : s4.clearReport.screen.mark =
        (isAlert m.state && s.isReady && !s4.screen.allCovered) := by
      simp only [State.clearReport, State.reportDue, isAlert_eq, s4, h3]
      exact reportMark _ _ _
    have k' : s4.clearReport.screen = { s4.screen with
        mark := isAlert m.state && s.isReady && !s4.screen.allCovered } := by
      rw [← k]; rfl
    simp only [s7, s6, State.markNotified, changeCore, e5, State.mk.injEq]
    refine ⟨?_, trivial, ?_, ?_, ?_, ?_, ?_, ?_, ?_, ?_, ?_, ?_, ?_, ?_, ?_, ?_⟩
    case refine_9 => exact k'.trans (by simp only [s4, h3]; rfl)
    all_goals simp only [s4, h3]
    all_goals rfl
  have hc : closure = closure' := rfl
  have hv : coverage = coverageReport (isAlert m.state && s.isReady) u' := by
    simp only [coverage, coverageNotices_eq, s4, h3]
    rfl
  have hr : refresh = cabinNotices s u' := by
    have e : s6.cabin = s.cabin.urgentCauses s.time.uptime fun _ => true := by
      simp only [s6, s5, s4, h3]; rfl
    have et : s6.time.uptime = s.time.uptime ∧ s6.muster.epoch = m.epoch := by
      simp only [s6, s5, s4, h3]; exact ⟨rfl, rfl⟩
    obtain ⟨hl, -, hs⟩ := urgentCauses_spec s.cabin s.time.uptime fun _ => true
    simp only [refresh, State.dueNotices, cabinNotices, e, State.cabinNotice, State.mkNotice, et.1, et.2, u',
      changeCore, List.getElem?_map]
    apply List.filterMap_congr
    intro i _
    cases hc : s.cabin.cabins[i]? with
    | none =>
      have : (s.cabin.urgentCauses s.time.uptime fun _ => true).cabins[i]? = none := by
        rw [List.getElem?_eq_none_iff, hl]; exact List.getElem?_eq_none_iff.1 hc
      rw [this]
    | some c =>
      obtain ⟨d, hd, hsoon, -⟩ := hs i c hc
      obtain ⟨-, -, -, h4, h5, h6, h7⟩ := hsoon rfl
      rw [hd]
      have hdue : d.due s.time.uptime = true ↔ d.eligible.toNat ≤ s.time.uptime.toNat ∧
          (c.notified = false ∨ c.pend = .routine) := by
        simp only [Cabin.due, h4, h7, Bool.and_eq_true, decide_eq_true_eq]
        cases c.notified <;> cases c.pend <;> simp
      by_cases hx : d.due s.time.uptime = true
      · have := hdue.1 hx
        simp [hx, h4, this]
      · have := mt hdue.2 hx
        have g : ¬ (d.eligible.toNat ≤ s.time.uptime.toNat ∧ (c.notified = false ∨ c.pend = .routine)) := this
        simp [hx, h4, g]
  refine (congrArg (fun t : State => t.handAll (arrange (Config.noticeOrder s.free) closure coverage refresh)) h7).trans
    ?_
  rw [hc, hv, hr]
  rfl

/-- A change of muster state does what R68 and R69 say, and leaves the memory path, the port and the rest of
the slot alone. -/
theorem changeMuster_changed (s : State) (m : MusterUnit) (o : Origin) :
    MusterChanged s (s.changeMuster m o) m o ∧ (s.changeMuster m o).path = s.path ∧
    (s.changeMuster m o).port = s.port ∧ (s.changeMuster m o).pending = s.pending ∧
    (s.changeMuster m o).cmd = { s.cmd with maint := (s.changeMuster m o).cmd.maint } := by
  have h := changeMuster_eq s m o
  extract_lets closes u closure at h
  obtain ⟨a, b, c, hp, hn⟩ := arrange_perm (Config.noticeOrder s.free) closure
    (coverageReport (isAlert m.state && s.isReady) u) (cabinNotices s u)
  rw [hn] at h
  rw [h]
  obtain ⟨h1, h2, h3⟩ := urgentCauses_spec s.cabin s.time.uptime fun _ => true
  refine ⟨⟨rfl, ?_, rfl, ?_, rfl, ?_, ?_, ?_, ?_, ?_⟩, rfl, rfl, rfl, rfl⟩
  · rfl
  · rfl
  · simpa [u, changeCore] using h1
  · intro i c hc
    obtain ⟨d, hd, hs, -⟩ := h3 i c hc
    exact ⟨_, by simp [u, changeCore, hd], urgentNow_of_soon (hs rfl)⟩
  · have e : closure = if s.muster.state = .normal ∧ isAlert m.state = true ∧ s.cmd.maint ≠ none then
        [{ kind := .maintWindow, urgent := false, subject := 0, detail := 2, epoch := m.epoch
           stamp := s.time.uptime }] else [] := by
      simp [closure, closes, Option.isSome_iff_ne_none, and_assoc]
    rw [e] at hp
    exact ⟨a, b, c, hp, rfl⟩
  · simp only [State.handAll_frame, u, closes, changeCore]
    have g (x : Option Nat) : (if (decide (s.muster.state = .normal) && isAlert m.state && x.isSome) = true then none
        else x) = if s.muster.state = .normal ∧ isAlert m.state = true then none else x := by
      cases x <;> by_cases hn : s.muster.state = .normal <;> cases isAlert m.state <;> simp [hn]
    exact g _
  · have e := foldl_push_frame (a ++ b ++ c) u.notice
    have e' := NoticeUnit.push_frame s.notice
      { kind := .musterState, urgent := true, subject := 0, detail := musterDetail m.state o
        epoch := m.epoch, stamp := s.time.uptime }
    refine ⟨rfl, rfl, rfl, rfl, rfl, rfl, rfl, ?_, ?_, ?_, ?_, ?_, ?_, ?_⟩
    · simpa [u, changeCore] using h2
    all_goals (simp only [State.handAll]; rw [e]; simp only [u, changeCore]; rw [e'])

/-- Notices are handed whatever the dirty marks do after it. -/
theorem NoticesHanded.dirty {u t : NoticeUnit} {ns : List Notice} (h : NoticesHanded u t ns) (d : Vector Bool 7) :
    NoticesHanded u { t with dirty := d } ns := by
  rw [h]; rfl

/-- A change of muster state is one whatever the port, the memory path and the slot hold, but for the
maintenance window, and whatever the status block's bookkeeping does after it. -/
theorem MusterChanged.transfer {s s' u u' : State} {m : MusterUnit} {o : Origin} (h : MusterChanged s u m o)
    (hs : s = { s' with port := s.port, path := s.path, cmd := { s.cmd with maint := s'.cmd.maint } })
    (hu : u' = { u with
      port := u'.port, path := u'.path, cmd := { u'.cmd with maint := u.cmd.maint }
      notice := { u.notice with dirty := u'.notice.dirty } }) :
    MusterChanged s' u' m o := by
  obtain ⟨h1, h2, h3, h4, h5, h6, h7, ⟨a, b, c, hp, hn⟩, h9, h10⟩ := h
  rw [hs] at h3 h4 h5 h6 h7 hp hn h9 h10
  rw [hu]
  exact ⟨h1, h2, h3, h4, h5, h6, h7,
    ⟨a, b, c, hp, hn.dirty _⟩, h9, h10⟩

end Sys2Proof.Machine
end

