-- ==== Sys2Proof/Laws/Rom.lean ====
section
/-! SUPPORT. What the loading of the ROM's records leaves, and what CHECK does with each block of its contents,
said once a block. -/

namespace Sys2Proof.Machine

open Sys2Proof

/-- Two windows share a line where each begins before the other ends (R16). -/
theorem sharesLine_iff (v w : Window) : sharesLine v w = true ↔
    v.base.toNat < w.base.toNat + 64 * w.lines ∧ w.base.toNat < v.base.toNat + 64 * v.lines := by
  simp [sharesLine]

/-- A window is cut to end at the last line of the address space (R16). -/
theorem cutWindow_value (w : Window) :
    (cutWindow w).value = { w with lines := min w.lines ((4294967296 - w.base.toNat) / 64) } := by
  simp only [cutWindow]
  split
  · rw [min_eq_right (by omega)]
  · rw [min_eq_left (by omega)]

/-- The low six bits of a line address are 0. -/
theorem alignLine_mod (a : Addr) : (alignLine a).toNat % 64 = 0 := by
  have h : alignLine a = (a >>> 6) <<< 6 := by
    simp only [alignLine]
    ext i hi
    simp only [BitVec.getElem_and, BitVec.getElem_shiftLeft, BitVec.getElem_ushiftRight]
    have hm : (0xFFFFFFC0#32)[i] = !decide (i < 6) := by
      have : ∀ i : Fin 32, (0xFFFFFFC0#32)[i.val] = !decide (i.val < 6) := by decide +revert
      exact this ⟨i, hi⟩
    rw [hm]
    by_cases h : i < 6
    · simp [h]
    · simp [h, show 6 + (i - 6) = i by omega, BitVec.getLsbD_eq_getElem hi]
  rw [h]
  simp only [BitVec.toNat_shiftLeft, BitVec.toNat_ushiftRight, Nat.shiftLeft_eq]
  omega

/-- Cutting a window is noted where it passes the top of the address space (R16). -/
theorem cutWindow_clamped {w : Window} (h : w.base.toNat % 64 = 0) :
    (cutWindow w).clamped = true ↔ 4294967296 < w.base.toNat + 64 * w.lines := by
  have := w.base.isLt
  simp only [cutWindow]
  split <;> simp <;> omega

/-- A window is admitted as `WindowAdmitted` says, which says all of it. -/
theorem admitWindow_admitted (earlier : List (Option Window)) (w : Window) :
    WindowAdmitted earlier w (admitWindow earlier w) := by
  have h : ((enabledOf earlier).any (sharesLine (cutWindow w).value)) = true ↔
      ∃ v, some v ∈ earlier ∧ sharesLine (cutWindow w).value v = true := by
    simp only [enabledOf, List.any_eq_true, List.mem_filterMap, id]
    constructor
    · rintro ⟨v, ⟨_, hv, rfl⟩, hs⟩; exact ⟨v, hv, hs⟩
    · rintro ⟨v, hv, hs⟩; exact ⟨v, ⟨_, hv, rfl⟩, hs⟩
  refine ⟨fun g => ?_, fun g => ?_⟩
  · rw [admitWindow, if_pos]
    rw [h]
    obtain ⟨v, hv, hs⟩ := g
    exact ⟨v, hv, by rw [sharesLine_iff, cutWindow_value]; exact hs⟩
  · rw [admitWindow, if_neg, cutWindow_value]
    rw [h]
    rintro ⟨v, hv, hs⟩
    rw [sharesLine_iff, cutWindow_value] at hs
    exact g v hv hs

/-- The windows after CHECK are as `WindowsChecked` says. -/
theorem checkWindows_checked (control : Addr) (body : List Byte) (n : Option Nat) :
    WindowsChecked control body n (checkWindows control body n) := by
  refine ⟨fun h => by rw [checkWindows]; exact if_pos h, fun h => ?_, admitWindow_admitted _ _,
    admitWindow_admitted _ _, fun h => by subst h; rfl, fun k h => ?_, ?_, ?_⟩
  · have := admitWindow_admitted [some { base := control, lines := 64 }]
      { base := alignLine (field32 (listByte body) 0), lines := (field32 (listByte body) 4).toNat }
    rw [checkWindows]; simp only; rw [if_neg h]; exact this
  · subst h
    have : (k + 1) / 2 = k / 2 + k % 2 := by omega
    simp only [this]
    exact admitWindow_admitted _ _
  · have cl : ∀ (o m : Nat),
        (cutWindow { base := alignLine (field32 (listByte body) o), lines := m }).clamped = true ↔
          4294967296 < (alignLine (field32 (listByte body) o)).toNat + 64 * m :=
      fun o m => cutWindow_clamped (alignLine_mod _)
    simp only [checkWindows, Bool.or_eq_true, cl, or_assoc]
    refine or_congr Iff.rfl (or_congr Iff.rfl (or_congr Iff.rfl ?_))
    cases n with
    | none => simp
    | some k =>
      have : (k + 1) / 2 = k / 2 + k % 2 := by omega
      simp [cl, this]
  · simp only [checkWindows, Bool.or_eq_true, or_assoc, Bool.and_eq_true, decide_eq_true_eq,
      Option.isNone_iff_eq_none, Option.isSome_iff_ne_none]
    refine or_congr Iff.rfl (or_congr Iff.rfl (or_congr Iff.rfl (and_congr (by simp) Iff.rfl)))

/-- An entry of the tag class table within its record is as `TagChecked` says. -/
theorem checkTag_checked {m : Nat} {body : List Byte} {i : Nat} (h : 2 * i < body.length) :
    TagChecked m (listByte body (2 * i)).toNat (listByte body (2 * i + 1)).toNat (checkTag m body i) := by
  simp only [TagChecked, checkTag, if_neg (Nat.not_le.2 h)]
  split <;> simp_all; omega

/-- A pane record is read as `PaneChecked` says. -/
theorem readPane_checked (b : Nat → Byte) (o cols rows : Nat) :
    PaneChecked b o cols rows (readPane b o cols rows) := by
  have hk : (∃ k, paneKindOf (b o).toNat = some k ∧ ¬ 5 < (b o).toNat) ∨
      (paneKindOf (b o).toNat = none ∧ 5 < (b o).toNat) := by
    generalize (b o).toNat = n
    match n with
    | 0 | 1 | 2 | 3 | 4 | 5 => left; simp [paneKindOf]
    | n + 6 => right; simp [paneKindOf]
  obtain ⟨k, hk, h5⟩ | ⟨hk, h5⟩ := hk
  · simp only [PaneChecked, readPane, hk, checkPane, h5, false_or]
    split <;> rename_i h
    · simp [h]
    · simp only [h, false_implies, not_false_eq_true, true_implies, true_and]
      refine ⟨⟨k, rfl, rfl⟩, ?_⟩
      push Not at h
      simp only [ne_eq, Pane.mk.injEq, true_and, decide_eq_true_eq]
      omega
  · simp only [PaneChecked, readPane, hk, h5, true_or]; simp

/-- What clamping to a range gives (R163). -/
theorem clampTo_value {low high n : Nat} (h : low ≤ high) :
    (clampTo low high n).value = min high (max low n) := by
  simp only [clampTo]; split
  · simp only; omega
  · split <;> simp only <;> omega

/-- Clamping is noted of a number out of the range (R163). -/
theorem clampTo_clamped {low high n : Nat} : (clampTo low high n).clamped = true ↔ n < low ∨ high < n := by
  simp only [clampTo]; split
  · simp; omega
  · split <;> simp <;> omega

/-- A screen kind code above 2 is noted (R30). -/
theorem screenKindOf_clamped (n : Nat) : (screenKindOf n).clamped = true ↔ 2 < n := by
  unfold screenKindOf; split <;> simp_all; omega

/-- A home station above 11 is noted (R30). -/
theorem checkHome_clamped (n : Nat) : (checkHome n).clamped = true ↔ 11 < n := by
  unfold checkHome; split <;> simp_all <;> omega

/-- A number above its limit is replaced (R163). -/
theorem replaceAbove_value (high other n : Nat) :
    (replaceAbove high other n).value = if n ≤ high then n else other := by
  unfold replaceAbove; split <;> split <;> first | rfl | omega

/-- A number above its limit is noted (R163). -/
theorem replaceAbove_clamped (high other n : Nat) : (replaceAbove high other n).clamped = true ↔ high < n := by
  unfold replaceAbove; split <;> simp_all

/-- Clearing set bits above deck 19 is noted, and replacing a mask of 0 is not (R30). -/
theorem checkDeckMask_clamped (mask : Word) (deck : Nat) :
    (checkDeckMask mask deck).clamped = true ↔ 2 ^ 20 ≤ mask.toNat := by
  unfold checkDeckMask; split <;> simp_all

/-- A screen record is read as `ScreenChecked` says. -/
theorem checkScreen_checked (b : Nat → Byte) : ScreenChecked b (checkScreen b) := by
  have hs : (checkScreen b).value.1.stride = min 32768 (max 64 ((field16 b 12).toNat / 64 * 64)) := rfl
  have hr : (checkScreen b).value.1.rows = min 4320 (max 1 (field16 b 14).toNat) := clampTo_value (by decide)
  have hc : (clampTo 0 4 (b 6).toNat).value = min 4 (b 6).toNat := by rw [clampTo_value (by decide)]; simp
  refine ⟨?_, ?_, replaceAbove_value 3 0 _, replaceAbove_value 31 _ _, replaceAbove_value 19 0 _, rfl, rfl, rfl,
    hs, hr, ?_, ?_, fun j => readPane_checked _ _ _ _, ?_⟩
  · show (screenKindOf (b 0).toNat).value = _
    unfold screenKindOf; split <;> simp_all
  · show (checkHome (b 1).toNat).value.val = _
    unfold checkHome; split <;> split <;> simp_all <;> omega
  · intro n hn
    show (checkDeckMask (field32 b 20) (checkScreen b).value.1.deck).value.getLsbD n = _
    unfold checkDeckMask; split
    · rw [BitVec.getLsbD_ofNat]; simp [hn, Nat.testBit_two_pow, eq_comm]
    · simp [hn]
  · show List.filterMap _ (List.map _ (List.range (clampTo 0 4 (b 6).toNat).value)) = _
    rw [hc]; rfl
  · have e : (checkScreen b).clamped =
        ((screenKindOf (b 0).toNat).clamped || (checkHome (b 1).toNat).clamped ||
          (replaceAbove 3 0 (b 2).toNat).clamped ||
          (replaceAbove 31 (checkHome (b 1).toNat).value.val (b 3).toNat).clamped ||
          (replaceAbove 19 0 (b 4).toNat).clamped || (checkStride (field16 b 12).toNat).clamped ||
          (clampTo 1 4320 (field16 b 14).toNat).clamped ||
          (checkDeckMask (field32 b 20) (replaceAbove 19 0 (b 4).toNat).value).clamped ||
          (clampTo 0 4 (b 6).toNat).clamped ||
          ((List.range (clampTo 0 4 (b 6).toNat).value).map fun j =>
            readPane b (24 + 8 * j) ((checkScreen b).value.1.stride / 64) (checkScreen b).value.1.rows).any
              Checked.clamped ||
          regionCut (checkScreen b).value.1.base (checkScreen b).value.1.stride
            (checkScreen b).value.1.rows) := rfl
    rw [e]
    have ks : (checkStride (field16 b 12).toNat).clamped = true ↔
        (checkScreen b).value.1.stride ≠ (field16 b 12).toNat := by
      rw [hs]; simp [checkStride]
    have kw : (clampTo 1 4320 (field16 b 14).toNat).clamped = true ↔
        (checkScreen b).value.1.rows ≠ (field16 b 14).toNat := by
      rw [hr, clampTo_clamped]; omega
    simp only [Bool.or_eq_true, screenKindOf_clamped, checkHome_clamped, replaceAbove_clamped,
      checkDeckMask_clamped, ks, kw, clampTo_clamped, List.any_eq_true, regionCut,
      decide_eq_true_eq, hc, Nat.not_lt_zero, false_or, or_assoc]

/-- A station table entry is read as `StationChecked` says. -/
theorem checkStation_checked (b : Nat → Byte) (i : Nat) :
    StationChecked (b (2 * i)).toNat (b (2 * i + 1)).toNat (checkStation b i) := by
  refine ⟨rfl, fun a => ?_, ?_⟩
  · simp only [checkStation]
    split
    · simp [Fin.ext_iff, eq_comm]
    · simp; omega
  · simp [checkStation]; omega

/-- An extent is inside the protected store where the store begins no later and ends no earlier. -/
theorem insideStore_iff (p : Option Window) (a : Addr) (n : Nat) : insideStore p a n = true ↔
    ∃ w, p = some w ∧ w.base.toNat ≤ a.toNat ∧ a.toNat + n ≤ w.base.toNat + 64 * w.lines := by
  cases p <;> simp [insideStore]

/-- A page entry is read as `PageChecked` says. -/
theorem checkPage_checked (p : Option Window) (b : Nat → Byte) (i : Nat) : PageChecked p b i (checkPage p b i) := by
  simp only [PageChecked, checkPage]
  split <;> rename_i h0
  · simp [h0]
  · split <;> rename_i h1
    · refine ⟨fun _ => rfl, fun _ hb => absurd ?_ hb, iff_of_true rfl (.inl ⟨h0, ?_⟩)⟩ <;> omega
    · rw [← insideStore_iff, ← insideStore_iff]
      split <;> rename_i h2
      · rw [Bool.and_eq_false_iff] at h2
        refine ⟨fun _ => rfl, fun _ hb => absurd ?_ hb, iff_of_true rfl (.inl ⟨h0, ?_⟩)⟩ <;>
          simp only [Bool.not_eq_true] <;> tauto
      · rw [Bool.not_eq_false, Bool.and_eq_true] at h2
        refine ⟨fun h => absurd h ?_, fun _ _ => rfl, ?_⟩
        · rintro (h | h | h | h | h | h | h | h) <;> first | exact h0 h | exact h h2.1 | exact h h2.2 | omega
        · simp only [decide_eq_true_eq]
          refine ⟨.inr, fun h => h.resolve_left ?_⟩
          rintro ⟨_, h | h | h | h | h | h | h⟩ <;> first | exact h h2.1 | exact h h2.2 | omega

/-- The attributes of a segment are read as `SegmentChecked` says. -/
theorem checkSegment_checked (b : Nat → Byte) (i : Nat) : SegmentChecked b i (checkSegment b i) := by
  refine ⟨?_, ?_⟩
  · simp only [checkSegment, Segment.mk.injEq, and_true]
    refine ⟨clampTo_value (by decide), ?_, ?_⟩
    · unfold segmentKindOf; split <;> simp_all
    · rw [replaceAbove_value]
  · have k : (segmentKindOf (b (2 + 4 * i + 2)).toNat).clamped = true ↔ 5 < (b (2 + 4 * i + 2)).toNat := by
      unfold segmentKindOf; split <;> simp_all; omega
    simp only [checkSegment, Bool.or_eq_true, clampTo_clamped, k, replaceAbove_clamped, or_assoc]
    omega

/-- The timing values are read as `TimingChecked` says. -/
theorem checkTiming_checked (b : Nat → Byte) : TimingChecked b (checkTiming b) := by
  refine ⟨?_, ?_⟩
  · simp only [checkTiming, Timing.mk.injEq]
    refine ⟨?_, ?_, ?_, ?_, ?_⟩ <;> exact clampTo_value (by decide)
  · simp only [checkTiming, Bool.or_eq_true, clampTo_clamped, or_assoc]

/-- The ring is read as `RingChecked` says. -/
theorem checkRing_checked (control : Addr) (b : Nat → Byte) : RingChecked control b (checkRing control b) := by
  have hc : (clampTo 16 1024 (field16 b 4).toNat).value = min 1024 (max 16 (field16 b 4).toNat) :=
    clampTo_value (by decide)
  simp only [RingChecked, checkRing, hc]
  split <;> rename_i h
  · simp [h, defaultRing]
  · simp only [h, false_implies, not_false_eq_true, true_implies, true_and, false_or, Bool.or_eq_true,
      clampTo_clamped, or_assoc, and_true]
    rw [clampTo_value (by omega)]

/-! ## Loading (R161, R162, R170) -/

/-- A 2-byte field's number is that of its bytes, lowest first (R167). -/
theorem field16_toNat (b : Nat → Byte) (o : Nat) : (field16 b o).toNat = number2 b o := by
  have := (b o).isLt
  simp only [field16, number2, BitVec.toNat_append]
  rw [← Nat.shiftLeft_add_eq_or_of_lt this, Nat.shiftLeft_eq]
  omega

/-- A body's length is good where the layout of its type allows it (R170). -/
theorem bodyFits_iff {type : Nat} (body : List Byte) (h : typeKnown type = true) :
    bodyLengthGood type body = true ↔ BodyFits type body := by
  simp [typeKnown] at h
  obtain ⟨h1, h2⟩ := h
  have hf := field16_toNat (listByte body) 0
  interval_cases type <;> simp [bodyLengthGood, BodyFits, hf]
  · constructor
    · rintro ⟨⟨h, _⟩, _⟩
      exact ⟨body.length / 2, by omega, by omega, by omega⟩
    · rintro ⟨k, _, _, h⟩; omega
  · omega

/-- The records are staged as `RecordsStaged` says, which says all of it (R162). -/
theorem stageRecords_staged (fuel : Nat) (l : List Byte) (acc : Loaded) (h : l.length < fuel) :
    RecordsStaged l acc (stageRecords fuel l acc) := by
  induction fuel generalizing l acc with
  | zero => omega
  | succ fuel ih =>
    match l with
    | [] => exact .done acc
    | [_] => exact .short _ acc (by simp) (by simp)
    | [_, _] => exact .short _ acc (by simp) (by simp)
    | type :: low :: high :: rest =>
      have hn : (high ++ low).toNat = low.toNat + 256 * high.toNat :=
        field16_toNat (fun i => if i = 0 then low else high) 0
      simp only [stageRecords, hn]
      simp only [List.length_cons] at h
      by_cases h1 : rest.length < low.toNat + 256 * high.toNat
      · rw [if_pos (.inl h1)]; exact .runsPast type low high rest acc h1
      · have hl : (rest.take (low.toNat + 256 * high.toNat)).length = low.toNat + 256 * high.toNat := by
          simp; omega
        have hs := (List.take_append_drop (low.toNat + 256 * high.toNat) rest).symm
        generalize rest.take (low.toNat + 256 * high.toNat) = body at hl hs
        have hi (acc) := ih (rest.drop (low.toNat + 256 * high.toNat)) acc (by simp; omega)
        generalize rest.drop (low.toNat + 256 * high.toNat) = tl at hs hi
        subst hs
        have kn : typeKnown type.toNat = true ↔ 1 ≤ type.toNat ∧ type.toNat ≤ 10 := by simp [typeKnown]
        have st : (stagedOf acc.staging type.toNat).isSome = true ↔ ∃ q ∈ acc.staging, q.1 = type.toNat := by
          simp [stagedOf]
        by_cases hk : typeKnown type.toNat = true
        · have hb := bodyFits_iff body hk
          by_cases h2 : bodyLengthGood type.toNat body = true
          · rw [if_neg (by simp [h2]; omega)]
            by_cases h3 : (stagedOf acc.staging type.toNat).isSome = true
            · rw [if_pos (.inr h3)]
              exact .repeated type low high body tl acc _ hl (hb.1 h2) (st.1 h3) (hi _)
            · rw [if_neg (by simp [hk]; simpa using h3)]
              exact .staged type low high body tl acc _ hl (hb.1 h2) (fun q hq e => h3 (st.2 ⟨q, hq, e⟩)) (hi _)
          · rw [if_pos (.inr ⟨hk, by simpa using h2⟩)]
            exact .badLength type low high body tl acc hl (kn.1 hk).1 (kn.1 hk).2 (mt hb.2 h2)
        · rw [if_neg (by simp [hk]; omega), if_pos (.inl (by simpa using hk))]
          exact .unknown type low high body tl acc _ hl (by have := mt kn.2 hk; omega) (hi _)

/-- A sum of bytes is that of their numbers, modulo 65536 (R161). -/
theorem foldl_sum (l : List Byte) (a : BitVec 16) :
    (l.foldl (fun sum b => sum + b.setWidth 16) a).toNat = (a.toNat + (l.map BitVec.toNat).sum) % 65536 := by
  induction l generalizing a with
  | nil => simp [Nat.mod_eq_of_lt a.isLt]
  | cons b l ih =>
    rw [List.foldl_cons, ih]
    have := b.isLt
    simp
    omega

/-- The running sum is that of the bytes from the signature through the last record byte (R161). -/
theorem romSum_toNat (rom : List Byte) :
    (romSum rom).toNat = ((List.range (3 + romLength rom)).map fun i => (romByte rom i).toNat).sum % 65536 := by
  rw [romSum, foldl_sum, List.range_add]
  simp [romRecords, List.range_succ, Function.comp_def]
  omega

end Sys2Proof.Machine
end

