-- ==== Sys2Proof/Laws/Slot.lean ====
section
/-! SUPPORT. A command written into an open slot: its write is accepted, the command starts with the
arguments of the write, and its result is placed at once. -/

namespace Sys2Proof.Machine

open Sys2Proof

@[simp] theorem nthLine_zero (a : Addr) : nthLine a 0 = a := by simp [nthLine]

/-- The line at the base of the control block is of class CONTROL and its first (R16, R17). -/
theorem classOf_base {c : Decoder} {base : Addr} (h : c.control = some base) :
    c.classOf base = .control ∧ indexIn c.controlWindow base = 0 := by
  constructor
  · simp [Decoder.classOf, Decoder.controlWindow, h, coveredBy, Window.covers]
  · simp [Decoder.controlWindow, h, indexIn, Window.lineIndex]

/-- A write of which no line is PROTECTED is not checked (R22). -/
theorem protectionCheck_none {s : State} {l : List Addr} (h : ∀ a ∈ l, s.cfg.classOf a ≠ .protect) :
    s.protectionCheck l = none := by
  have : l.find? (fun a => decide (s.cfg.classOf a = .protect)) = none := by simpa using h
  simp [State.protectionCheck, this]

/-- The 28 bytes that a write of the whole slot leaves in the copy (R147). -/
theorem slotLine_merge (copy : Vector Byte 28) (code seq : Byte) (args : List Word) :
    mergeBytes copy 0 (slotLine code seq args) = sliceBytes (slotLine code seq args).data 0 := by
  apply Vector.ext
  intro i hi
  have : i < 64 := by omega
  simp [mergeBytes, sliceBytes, slotLine, enablesAt, this]

theorem slotLine_word (code seq : Byte) (args : List Word) :
    anyEnabled (slotLine code seq args).en 0 4 = true := by
  simp [anyEnabled, slotLine, enablesAt]
  exact ⟨0, by omega, by simp⟩

theorem slotCopy_code (code seq : Byte) (args : List Word) :
    vecByte (sliceBytes (n := 28) (slotLine code seq args).data 0) 0 = code := by
  simp [vecByte, sliceBytes, slotLine, lineOf]

theorem slotCopy_seq (code seq : Byte) (args : List Word) :
    vecByte (sliceBytes (n := 28) (slotLine code seq args).data 0) 1 = seq := by
  simp [vecByte, sliceBytes, slotLine, lineOf]

/-- A command written into an open slot starts (R2, R20, R147). -/
theorem commandWrite_open {s : State} {base : Addr} (h : s.slotOpen base) (code seq : Byte)
    (args : List Word) (hc : code ≠ 0) :
    s.commandWrite code seq args = (s.slotWritten base code seq args).startCommand code.toNat := by
  obtain ⟨h1, h2, h3, h4, h5⟩ := h
  have k : s.protectionCheck [base] = none :=
    protectionCheck_none (by simp [(classOf_base h2).1])
  have room : ¬ s.path.pwqFree < 1 := by simp only [Path.pwqFree]; omega
  simp [State.commandWrite, State.writeArrives, h1, h2, addressed, k, room, State.acceptWrite,
    State.deliverLine, State.enqueueWrite, State.answerPsp, (classOf_base h2).1, (classOf_base h2).2,
    State.deliverControl, State.deliverSlot, slotLine_word, State.actOnWord, slotLine_merge, slotCopy_code,
    slotCopy_seq, h3, State.slotWritten, pwqEntryOf]
  exact fun e => absurd e hc

theorem word_of_bytes (w : Word) :
    w.extractLsb' 24 8 ++ w.extractLsb' 16 8 ++ w.extractLsb' 8 8 ++ w.extractLsb' 0 8 = w := by
  apply BitVec.eq_of_getLsbD_eq
  intro i hi
  simp only [BitVec.getLsbD_append, BitVec.getLsbD_extractLsb']
  split_ifs
  · simp [*]
  · rw [show 8 + (i - 8) = i by omega]
    simp [*]
  · rw [show 16 + (i - 8 - 8) = i by omega]
    simp [*]
  · rw [show 24 + (i - 8 - 8 - 8) = i by omega]
    simp [show i - 8 - 8 - 8 < 8 by omega]

/-- The argument words of a command are those of its write (R147, spec 11). -/
theorem slotWritten_arg (s : State) (base : Addr) (code seq : Byte) (a b c : Word) :
    (s.slotWritten base code seq [a]).argWord 0 = a ∧
    (s.slotWritten base code seq [a, b]).argWord 0 = a ∧ (s.slotWritten base code seq [a, b]).argWord 1 = b ∧
    (s.slotWritten base code seq [a, b, c]).argWord 0 = a ∧
    (s.slotWritten base code seq [a, b, c]).argWord 1 = b ∧
    (s.slotWritten base code seq [a, b, c]).argWord 2 = c := by
  and_intros <;>
    (simp [State.slotWritten, State.argWord, field32, vecByte, sliceBytes, slotLine, lineOf, bytes32];
      exact word_of_bytes _)

/-- Two lists of writes that follow one another end in the same write, where it is no status line's. -/
theorem sameWrites_concat {l m : List IwqEntry} {e : IwqEntry} (h : List.Forall₂ SameWrite (l ++ [e]) m)
    (he : ∀ i, e.kind ≠ .status i) : ∃ l', List.Forall₂ SameWrite l l' ∧ m = l' ++ [e] := by
  induction l generalizing m with
  | nil =>
    cases h with
    | cons h g =>
      rename_i f rest
      cases g
      obtain ⟨h1, h2, h3, h4⟩ := h
      refine ⟨[], .nil, ?_⟩
      have := h4 he
      cases e; cases f
      simp_all
  | cons x l ih =>
    cases h with
    | cons h g =>
      obtain ⟨l', h1, rfl⟩ := ih g
      exact ⟨_ :: l', .cons h h1, rfl⟩

/-- A command that has left the path, the port and the slot as its write left them, but for the maintenance
window, and then ends with a plain result, ends as CommandEnds says. -/
theorem commandEnds_of {s u t : State} {base : Addr} {code seq : Byte} {args : List Word} {o : CmdOutcome}
    {detail : Word} (h : s.slotOpen base) (path : u.path = (s.slotWritten base code seq args).path)
    (port : u.port = (s.slotWritten base code seq args).port) (cfg : u.cfg = s.cfg)
    (cmd : u.cmd = { (s.slotWritten base code seq args).cmd with maint := u.cmd.maint })
    (ht : StatusFollows (u.endCommand { outcome := o, detail := detail }) t) :
    CommandEnds s t base code seq args o detail ∧ t.cmd.maint = u.cmd.maint := by
  obtain ⟨-, hb, -, -, room⟩ := h
  have hp : u.path.iwq = s.path.iwq := by rw [path]; rfl
  rw [endCommand_room _ (by rw [hp]; exact room)] at ht
  obtain ⟨h1, h2, -⟩ := ht
  obtain ⟨l, h3, h4⟩ := sameWrites_concat (l := u.path.iwq)
    (e := u.resultEntry { outcome := o, detail := detail }) h2 (by intro i; simp [State.resultEntry])
  have ov : u.cmd.overrunMark = false := by rw [cmd]; rfl
  have sq : u.cmd.seqInHand = seq := by rw [cmd]; rfl
  have flags : resultFlags false { outcome := o, detail := detail } = 0 := by simp [resultFlags]
  refine ⟨⟨?_, ?_, ⟨l, hp ▸ h3, ?_⟩, ?_⟩, ?_⟩
  · rw [h1]; exact port
  · rw [h1]; simp only [State.placeResult]; rw [path]; rfl
  · rw [h4]; simp [State.resultEntry, cfg, hb, ov, sq, resultFlags]
  · rw [h1]
    simp only [State.placeResult, sq, ov, flags]
    generalize u.cmd = x at cmd
    rw [cmd]
    simp only [State.slotWritten]
  · rw [h1]; rfl

end Sys2Proof.Machine
end

