-- ==== Sys2Proof/Laws/State.lean ====
section
/-! SUPPORT. One lemma per field for the updates of the state that have a name, each true by definition.
The frames of the larger operations stand in Frames.lean. -/

namespace Sys2Proof.Machine

open Sys2Proof

@[simp] theorem State.answerPsp_pending (s : State) (a : PspAnswer) : (s.answerPsp a).pending = s.pending := rfl
@[simp] theorem State.answerPsp_free (s : State) (a : PspAnswer) : (s.answerPsp a).free = s.free := rfl
@[simp] theorem State.answerPsp_port (s : State) (a : PspAnswer) :
    (s.answerPsp a).port = { s.port with psp := some a } := rfl
@[simp] theorem State.answerPsp_loader (s : State) (a : PspAnswer) : (s.answerPsp a).loader = s.loader := rfl
@[simp] theorem State.answerPsp_time (s : State) (a : PspAnswer) : (s.answerPsp a).time = s.time := rfl
@[simp] theorem State.answerPsp_cfg (s : State) (a : PspAnswer) : (s.answerPsp a).cfg = s.cfg := rfl
@[simp] theorem State.answerPsp_path (s : State) (a : PspAnswer) : (s.answerPsp a).path = s.path := rfl
@[simp] theorem State.answerPsp_lines (s : State) (a : PspAnswer) : (s.answerPsp a).lines = s.lines := rfl
@[simp] theorem State.answerPsp_muster (s : State) (a : PspAnswer) : (s.answerPsp a).muster = s.muster := rfl
@[simp] theorem State.answerPsp_screen (s : State) (a : PspAnswer) : (s.answerPsp a).screen = s.screen := rfl
@[simp] theorem State.answerPsp_station (s : State) (a : PspAnswer) : (s.answerPsp a).station = s.station := rfl
@[simp] theorem State.answerPsp_route (s : State) (a : PspAnswer) : (s.answerPsp a).route = s.route := rfl
@[simp] theorem State.answerPsp_prog (s : State) (a : PspAnswer) : (s.answerPsp a).prog = s.prog := rfl
@[simp] theorem State.answerPsp_cabin (s : State) (a : PspAnswer) : (s.answerPsp a).cabin = s.cabin := rfl
@[simp] theorem State.answerPsp_notice (s : State) (a : PspAnswer) : (s.answerPsp a).notice = s.notice := rfl
@[simp] theorem State.answerPsp_cmd (s : State) (a : PspAnswer) : (s.answerPsp a).cmd = s.cmd := rfl

@[simp] theorem State.issueMsp_pending (s : State) (r : MspRequest) : (s.issueMsp r).pending = s.pending := rfl
@[simp] theorem State.issueMsp_free (s : State) (r : MspRequest) : (s.issueMsp r).free = s.free := rfl
@[simp] theorem State.issueMsp_port (s : State) (r : MspRequest) :
    (s.issueMsp r).port = { s.port with msp := some r } := rfl
@[simp] theorem State.issueMsp_loader (s : State) (r : MspRequest) : (s.issueMsp r).loader = s.loader := rfl
@[simp] theorem State.issueMsp_time (s : State) (r : MspRequest) : (s.issueMsp r).time = s.time := rfl
@[simp] theorem State.issueMsp_cfg (s : State) (r : MspRequest) : (s.issueMsp r).cfg = s.cfg := rfl
@[simp] theorem State.issueMsp_path (s : State) (r : MspRequest) : (s.issueMsp r).path = s.path := rfl
@[simp] theorem State.issueMsp_lines (s : State) (r : MspRequest) : (s.issueMsp r).lines = s.lines := rfl
@[simp] theorem State.issueMsp_muster (s : State) (r : MspRequest) : (s.issueMsp r).muster = s.muster := rfl
@[simp] theorem State.issueMsp_screen (s : State) (r : MspRequest) : (s.issueMsp r).screen = s.screen := rfl
@[simp] theorem State.issueMsp_station (s : State) (r : MspRequest) : (s.issueMsp r).station = s.station := rfl
@[simp] theorem State.issueMsp_route (s : State) (r : MspRequest) : (s.issueMsp r).route = s.route := rfl
@[simp] theorem State.issueMsp_prog (s : State) (r : MspRequest) : (s.issueMsp r).prog = s.prog := rfl
@[simp] theorem State.issueMsp_cabin (s : State) (r : MspRequest) : (s.issueMsp r).cabin = s.cabin := rfl
@[simp] theorem State.issueMsp_notice (s : State) (r : MspRequest) : (s.issueMsp r).notice = s.notice := rfl
@[simp] theorem State.issueMsp_cmd (s : State) (r : MspRequest) : (s.issueMsp r).cmd = s.cmd := rfl

@[simp] theorem State.modScreen_pending (s : State) (i : Nat) (f : Screen → Screen) :
    (s.modScreen i f).pending = s.pending := rfl
@[simp] theorem State.modScreen_free (s : State) (i : Nat) (f : Screen → Screen) :
    (s.modScreen i f).free = s.free := rfl
@[simp] theorem State.modScreen_port (s : State) (i : Nat) (f : Screen → Screen) :
    (s.modScreen i f).port = s.port := rfl
@[simp] theorem State.modScreen_loader (s : State) (i : Nat) (f : Screen → Screen) :
    (s.modScreen i f).loader = s.loader := rfl
@[simp] theorem State.modScreen_time (s : State) (i : Nat) (f : Screen → Screen) :
    (s.modScreen i f).time = s.time := rfl
@[simp] theorem State.modScreen_cfg (s : State) (i : Nat) (f : Screen → Screen) :
    (s.modScreen i f).cfg = s.cfg := rfl
@[simp] theorem State.modScreen_path (s : State) (i : Nat) (f : Screen → Screen) :
    (s.modScreen i f).path = s.path := rfl
@[simp] theorem State.modScreen_lines (s : State) (i : Nat) (f : Screen → Screen) :
    (s.modScreen i f).lines = s.lines := rfl
@[simp] theorem State.modScreen_muster (s : State) (i : Nat) (f : Screen → Screen) :
    (s.modScreen i f).muster = s.muster := rfl
@[simp] theorem State.modScreen_station (s : State) (i : Nat) (f : Screen → Screen) :
    (s.modScreen i f).station = s.station := rfl
@[simp] theorem State.modScreen_route (s : State) (i : Nat) (f : Screen → Screen) :
    (s.modScreen i f).route = s.route := rfl
@[simp] theorem State.modScreen_prog (s : State) (i : Nat) (f : Screen → Screen) :
    (s.modScreen i f).prog = s.prog := rfl
@[simp] theorem State.modScreen_cabin (s : State) (i : Nat) (f : Screen → Screen) :
    (s.modScreen i f).cabin = s.cabin := rfl
@[simp] theorem State.modScreen_notice (s : State) (i : Nat) (f : Screen → Screen) :
    (s.modScreen i f).notice = s.notice := rfl
@[simp] theorem State.modScreen_cmd (s : State) (i : Nat) (f : Screen → Screen) :
    (s.modScreen i f).cmd = s.cmd := rfl

@[simp] theorem State.slotWritten_pending (s : State) (b : Addr) (code seq : Byte) (args : List Word) :
    (s.slotWritten b code seq args).pending = s.pending := rfl
@[simp] theorem State.slotWritten_free (s : State) (b : Addr) (code seq : Byte) (args : List Word) :
    (s.slotWritten b code seq args).free = s.free := rfl
@[simp] theorem State.slotWritten_port (s : State) (b : Addr) (code seq : Byte) (args : List Word) :
    (s.slotWritten b code seq args).port = { s.port with psp := some .accept } := rfl
@[simp] theorem State.slotWritten_loader (s : State) (b : Addr) (code seq : Byte) (args : List Word) :
    (s.slotWritten b code seq args).loader = s.loader := rfl
@[simp] theorem State.slotWritten_time (s : State) (b : Addr) (code seq : Byte) (args : List Word) :
    (s.slotWritten b code seq args).time = s.time := rfl
@[simp] theorem State.slotWritten_cfg (s : State) (b : Addr) (code seq : Byte) (args : List Word) :
    (s.slotWritten b code seq args).cfg = s.cfg := rfl
@[simp] theorem State.slotWritten_lines (s : State) (b : Addr) (code seq : Byte) (args : List Word) :
    (s.slotWritten b code seq args).lines = s.lines := rfl
@[simp] theorem State.slotWritten_muster (s : State) (b : Addr) (code seq : Byte) (args : List Word) :
    (s.slotWritten b code seq args).muster = s.muster := rfl
@[simp] theorem State.slotWritten_screen (s : State) (b : Addr) (code seq : Byte) (args : List Word) :
    (s.slotWritten b code seq args).screen = s.screen := rfl
@[simp] theorem State.slotWritten_station (s : State) (b : Addr) (code seq : Byte) (args : List Word) :
    (s.slotWritten b code seq args).station = s.station := rfl
@[simp] theorem State.slotWritten_route (s : State) (b : Addr) (code seq : Byte) (args : List Word) :
    (s.slotWritten b code seq args).route = s.route := rfl
@[simp] theorem State.slotWritten_prog (s : State) (b : Addr) (code seq : Byte) (args : List Word) :
    (s.slotWritten b code seq args).prog = s.prog := rfl
@[simp] theorem State.slotWritten_cabin (s : State) (b : Addr) (code seq : Byte) (args : List Word) :
    (s.slotWritten b code seq args).cabin = s.cabin := rfl
@[simp] theorem State.slotWritten_notice (s : State) (b : Addr) (code seq : Byte) (args : List Word) :
    (s.slotWritten b code seq args).notice = s.notice := rfl

@[simp] theorem State.accepted_pending (s : State) (l : List (Addr × WriteLine)) :
    (s.accepted l).pending = s.pending := rfl
@[simp] theorem State.accepted_free (s : State) (l : List (Addr × WriteLine)) : (s.accepted l).free = s.free := rfl
@[simp] theorem State.accepted_port (s : State) (l : List (Addr × WriteLine)) :
    (s.accepted l).port = { s.port with psp := some .accept } := rfl
@[simp] theorem State.accepted_loader (s : State) (l : List (Addr × WriteLine)) :
    (s.accepted l).loader = s.loader := rfl
@[simp] theorem State.accepted_time (s : State) (l : List (Addr × WriteLine)) : (s.accepted l).time = s.time := rfl
@[simp] theorem State.accepted_cfg (s : State) (l : List (Addr × WriteLine)) : (s.accepted l).cfg = s.cfg := rfl
@[simp] theorem State.accepted_lines (s : State) (l : List (Addr × WriteLine)) :
    (s.accepted l).lines = s.lines := rfl
@[simp] theorem State.accepted_muster (s : State) (l : List (Addr × WriteLine)) :
    (s.accepted l).muster = s.muster := rfl
@[simp] theorem State.accepted_screen (s : State) (l : List (Addr × WriteLine)) :
    (s.accepted l).screen = s.screen := rfl
@[simp] theorem State.accepted_station (s : State) (l : List (Addr × WriteLine)) :
    (s.accepted l).station = s.station := rfl
@[simp] theorem State.accepted_route (s : State) (l : List (Addr × WriteLine)) :
    (s.accepted l).route = s.route := rfl
@[simp] theorem State.accepted_prog (s : State) (l : List (Addr × WriteLine)) : (s.accepted l).prog = s.prog := rfl
@[simp] theorem State.accepted_cabin (s : State) (l : List (Addr × WriteLine)) :
    (s.accepted l).cabin = s.cabin := rfl
@[simp] theorem State.accepted_notice (s : State) (l : List (Addr × WriteLine)) :
    (s.accepted l).notice = s.notice := rfl
@[simp] theorem State.accepted_cmd (s : State) (l : List (Addr × WriteLine)) : (s.accepted l).cmd = s.cmd := rfl

@[simp] theorem State.slotWritten_seq (s : State) (b : Addr) (code seq : Byte) (args : List Word) :
    (s.slotWritten b code seq args).path.seq = s.path.seq + 1 := rfl
@[simp] theorem State.slotWritten_iwq (s : State) (b : Addr) (code seq : Byte) (args : List Word) :
    (s.slotWritten b code seq args).path.iwq = s.path.iwq := rfl
@[simp] theorem State.slotWritten_trackers (s : State) (b : Addr) (code seq : Byte) (args : List Word) :
    (s.slotWritten b code seq args).path.trackers = s.path.trackers := rfl
@[simp] theorem State.slotWritten_executing (s : State) (b : Addr) (code seq : Byte) (args : List Word) :
    (s.slotWritten b code seq args).cmd.executing = true := rfl
@[simp] theorem State.slotWritten_seqInHand (s : State) (b : Addr) (code seq : Byte) (args : List Word) :
    (s.slotWritten b code seq args).cmd.seqInHand = seq := rfl
@[simp] theorem State.slotWritten_maint (s : State) (b : Addr) (code seq : Byte) (args : List Word) :
    (s.slotWritten b code seq args).cmd.maint = s.cmd.maint := by
  simp only [State.slotWritten]
@[simp] theorem State.slotWritten_rescan (s : State) (b : Addr) (code seq : Byte) (args : List Word) :
    (s.slotWritten b code seq args).cmd.rescan = s.cmd.rescan := by
  simp only [State.slotWritten]
@[simp] theorem State.accepted_iwq (s : State) (l : List (Addr × WriteLine)) :
    (s.accepted l).path.iwq = s.path.iwq := rfl
@[simp] theorem State.accepted_seq (s : State) (l : List (Addr × WriteLine)) :
    (s.accepted l).path.seq = s.path.seq + 1 := rfl
@[simp] theorem State.accepted_trackers (s : State) (l : List (Addr × WriteLine)) :
    (s.accepted l).path.trackers = s.path.trackers := rfl

/-! ## The input lines -/

/-- A filter read back from where it was put. -/
@[simp] theorem Lines.get_put (l : Lines) (line : InputLine) (f : Filter) : (l.put line f).get line = f := by
  cases line <;> simp [Lines.get, Lines.put]

/-- Putting one line's filter leaves every other line's. -/
theorem Lines.get_put_of_ne (l : Lines) {line other : InputLine} (f : Filter) (h : other ≠ line) :
    (l.put line f).get other = l.get other := by
  cases line <;> cases other <;> simp_all [Lines.get, Lines.put]
  case fire n m =>
    exact Vector.getElem_set_ne _ _ (fun e => h (Fin.ext e.symm))

end Sys2Proof.Machine
end

