-- ==== Sys2Proof/Laws/Tables.lean ====
section
/-! SUPPORT. What delivered table lines share: handed notices, touched rescan units, home stations. -/

namespace Sys2Proof.Machine

open Sys2Proof

/-- Notices handed one after another are handed as `NoticesHanded` says. -/
theorem handAll_handed (s : State) (ns : List Notice) : NoticesHanded s.notice (s.handAll ns).notice ns := by
  unfold NoticesHanded State.handAll
  rfl

theorem unitsPerLine_pos (t : ScanTable) : 0 < unitsPerLine t := by cases t <;> decide

/-- A delivered line marks the units of the rescan's read that received an enabled byte, and nothing else. -/
theorem touch_touched (before : Option Rescan) (table : ScanTable) (k : Nat) (en : Enables) :
    RescanTouched before (before.map fun r => r.touch table k en) table k en := by
  refine ⟨fun h => by rw [h]; rfl, fun r h => ⟨_, by rw [h]; rfl, ?_, ?_, ?_⟩⟩
  · simp only [Rescan.touch]; split <;> rfl
  · simp only [Rescan.touch]; split <;> simp
  · intro j u hu hlt
    have hp := unitsPerLine_pos table
    have h1 : (j * unitsPerLine table + u) / unitsPerLine table = j := by
      rw [Nat.add_comm, Nat.add_mul_div_right _ _ hp, Nat.div_eq_of_lt hu]; simp
    have h2 : (j * unitsPerLine table + u) % unitsPerLine table = u := by
      rw [Nat.add_comm, Nat.add_mul_mod_self_right, Nat.mod_eq_of_lt hu]
    simp only [Rescan.touch]
    split
    · rename_i h
      simp only [List.getD_eq_getElem?_getD, List.getElem?_mapIdx, List.getElem?_eq_getElem hlt,
        Option.map_some, Option.getD_some, h1, h2]
      congr 1; congr 1
      simp only [h.1, decide_true, Bool.true_and]
      rw [Bool.eq_iff_iff]; simp; omega
    · rename_i h
      have : (decide (r.table = table) && decide (k = r.first + j) && decide (j < r.count)) = false := by
        rw [Bool.eq_false_iff]; intro g; simp at g; exact h ⟨g.1.1, by omega, by omega⟩
      rw [this]; simp

/-- The station to show is the effective station of the home station, or 15 (R137). -/
theorem shownStation_eq (s : State) (h : Option StationIx) :
    s.shownStation h = ((h.bind s.effective).map Fin.val).getD 15 := by
  unfold State.shownStation
  cases h with
  | none => rfl
  | some x => simp only [Option.bind_some]; cases s.effective x <;> rfl

theorem outsideNormal_iff (m : MusterState) :
    outsideNormal m = true ↔ m = .drill ∨ m = .muster ∨ m = .standdown := by
  cases m <;> simp [outsideNormal]

end Sys2Proof.Machine
end

