-- ==== Sys2Proof/WellFormed.lean ====
section
/-! DEFINITION. Which commands are well formed: operands that the port's form, the line's filters, the
command's row or the ROM's form allow. -/

namespace Sys2Proof

/-- Whether a ROM operand gives every byte that the loader reads: the signature alone if it is bad,
else 1 + 2 + L + 2 bytes (R161). -/
def romComplete (rom : List Byte) : Bool :=
  decide (1 ≤ rom.length) &&
    (!Machine.signatureGood (Machine.listByte rom 0) ||
      (decide (3 ≤ rom.length) && decide (5 + Machine.romLength rom ≤ rom.length)))

/-- The well-formedness of a command. A request carries 1 to 4 lines (spec 01, section 1.1). A
head-index write enables a byte of the head index (R155). BELL has no debounced level (R51). An
unknown command's code is not 0 and names no command (R150). -/
def Instr.wellFormed : Instr → Bool
  | .pspWrite req => decide (1 ≤ req.lines.length) && decide (req.lines.length ≤ 4)
  | .headIndexWrite _ _ enLow enHigh => enLow || enHigh
  | .programmeLineWrite _ _ _ => true
  | .segmentStatusWrite _ _ _ => true
  | .cabinRecordWrite _ _ _ => true
  | .pspRead _ _ count => decide (1 ≤ count) && decide (count ≤ 4)
  | .arbiterGrant => true
  | .pwqWriteAnswer _ => true
  | .readLineData _ _ _ => true
  | .readLineError _ _ => true
  | .readAnswer _ => true
  | .ownReadLineAnswer _ _ _ => true
  | .iwqWriteAnswer _ => true
  | .memoryTimeout _ => true
  | .lateAnswer _ => true
  | .noticeWriterTurn => true
  | .resultWordPlacement => true
  | .drillStart _ _ => true
  | .drillEnd _ _ => true
  | .musterOrder _ _ => true
  | .allClear _ _ => true
  | .standdownEnd _ _ => true
  | .stationClose _ _ _ => true
  | .stationOpen _ _ _ => true
  | .setAlternate _ _ _ _ => true
  | .publishPage _ _ _ _ _ => true
  | .openWindow _ _ => true
  | .closeWindow _ _ => true
  | .setClock _ _ _ _ => true
  | .scheduleShift _ _ _ _ _ => true
  | .cancelShift _ _ => true
  | .setDefaultTarget _ _ _ _ => true
  | .rescan _ _ _ => true
  | .setRing _ _ => true
  | .unknownCommand _ _ code => decide (18 ≤ code.toNat)
  | .rawLineChange _ _ => true
  | .deglitchExpiry _ => true
  | .debounceExpiry line => decide (line ≠ .bell)
  | .longBlast => true
  | .gapTimerExpiry => true
  | .standdownTimerExpiry => true
  | .maintTimerExpiry => true
  | .darkTimerExpiry _ => true
  | .clockAdvance => true
  | .uptimeSecond => true
  | .routeComputationStart => true
  | .reset => true
  | .resetRelease _ _ => true
  | .romLoadEnd rom => romComplete rom
  | .startUpEnd => true

end Sys2Proof
end

