-- ==== Sys2Proof/Tests/Slice0.lean ====
section
/-! SUPPORT. The model's own tests: ill-formed commands that WellFormed refuses, the spec's worked cases,
and a witness for the hypotheses of every statement. -/

set_option Elab.async false

namespace Sys2Proof.Tests

open Sys2Proof Sys2Proof.Machine

/-! ## Ill-formed commands -/

def blank : WriteLine := { data := Vector.replicate 64 0, en := Vector.replicate 64 true }

theorem test_refuses_write_of_no_line :
    (Instr.pspWrite { tag := 0, first := 0, lines := [] }).wellFormed = false := by decide

theorem test_refuses_write_of_five_lines :
    (Instr.pspWrite { tag := 0, first := 0, lines := List.replicate 5 blank }).wellFormed = false := by decide

theorem test_refuses_read_of_no_line : (Instr.pspRead 0 0 0).wellFormed = false := by decide

theorem test_refuses_read_of_five_lines : (Instr.pspRead 0 0 5).wellFormed = false := by decide

theorem test_refuses_head_index_with_no_byte : (Instr.headIndexWrite 0 0 false false).wellFormed = false := by
  decide

theorem test_refuses_unknown_command_that_is_known : (Instr.unknownCommand 0 0 17).wellFormed = false := by
  decide

theorem test_refuses_debounce_of_bell : (Instr.debounceExpiry .bell).wellFormed = false := by decide

theorem test_refuses_short_rom : (Instr.romLoadEnd [0x80, 15, 0]).wellFormed = false := by decide

/-! ## A part in READY -/

def control : Addr := 0x3F000000

/-- A WAYFINDING screen of one line a row, with an ARROW pane and a BANNER pane. -/
def screen0 : Screen :=
  { conf := { kind := .wayfinding, base := 0x10000000, stride := 128, rows := 4, fill := 0x11223344, deck := 1
              home := 2, language := 0, deckMask := 0x10, categoryMask := 5
              panes := [{ kind := .arrow, x := 0, w := 1, y := 0, h := 1 },
                        { kind := .banner, x := 1, w := 1, y := 0, h := 1 }] }
    defaultTarget := 2 }

def segments : List Segment :=
  [{ length := 40, kind := .corridor, zone := 0 }, { length := 12, kind := .stairDown, zone := 3 },
    { length := 25, kind := .corridor, zone := 0 }, { length := 4, kind := .lift, zone := 0 }]

def pages : List (Option Page) :=
  [some { slot0 := 0x20000000, slot1 := 0x20000040, stride := 64, rows := 1, live := true }, none]

/-- A part in READY and NORMAL, with every window, one screen, four segments and two cabins. -/
def ready : State :=
  { loader := { phase := .ready }
    cfg := { control := some control, protect := some { base := 0x20000000, lines := 16 }
             programme := some { base := 0x30000000, lines := 4 }, segment := some { base := 0x30010000, lines := 1 }
             cabin := some { base := 0x30020000, lines := 1 }
             tags := ((Vector.replicate 64 TagClass.general).set 1 (.scanout 0)).set 2 .corridor }
    muster := { state := .normal }
    screen := { screens := [screen0] }
    station := { table := some (StationTable.of (Vector.replicate 12 {})), pages := pages }
    route := { segments := segments, tableBase := some 0x20000200, results := [.none] }
    prog := { clockSet := true, shadow := List.replicate 256 {}, sel := [some { featured := some 2 }] }
    cabin := { cabins := [{ home := some 2 }, {}] }
    notice := { ring := { base := 0x3F000800, count := 16, watermark := 4 } } }

/-- `ready` in another muster state. -/
def inState (m : MusterState) : State := { ready with muster := { state := m, epoch := 5 } }

/-! ## The spec's worked cases -/

/-- Spec 06, "three candidates to station C": 40 + 24 + 25, 120 + 63 and 2 + 15. -/
theorem test_route_costs :
    routeCost [{ length := 40, kind := .corridor, zone := 0 }, { length := 12, kind := .stairDown, zone := 3 },
      { length := 25, kind := .corridor, zone := 0 }] = 89 ∧
    routeCost [{ length := 30, kind := .corridor, zone := 0, soft := .restricted },
      { length := 50, kind := .openDeck, zone := 0 }] = 183 ∧
    routeCost [{ length := 4, kind := .lift, zone := 0 }, { length := 15, kind := .corridor, zone := 0 }] = 17 := by
  decide

/-- Spec 06, "saturation": 14 segments of 12000. -/
theorem test_route_cost_saturates :
    routeCost (List.replicate 14 { length := 1000, kind := .stairUp, zone := 0, soft := .restricted }) = 65535 := by
  decide

/-- Spec 06, the table of R103: below 82 wins against 93, and 82 does not. -/
theorem test_hysteresis :
    hysteresis (some { index := 0, cost := 93, glyph := 1 }) { index := 1, cost := 81, glyph := 2 } =
      { index := 1, cost := 81, glyph := 2 } ∧
    hysteresis (some { index := 0, cost := 93, glyph := 1 }) { index := 1, cost := 82, glyph := 2 } =
      { index := 0, cost := 93, glyph := 1 } := by decide

/-- Spec 05, "following the alternates". -/
def alternates : Vector Station 12 :=
  #v[{}, { closed := true, alternate := some 2 }, { closed := true, alternate := some 3 },
    { closed := true, alternate := some 4 }, { closed := true, alternate := some 5 }, {},
    { closed := true, alternate := some 7 }, { closed := true, alternate := some 6 }, { closed := true },
    { alternate := some 8 }, { closed := true, alternate := some 9 }, { closed := true, alternate := some 11 }]

theorem test_effective_stations :
    allEffective alternates = #v[some 0, none, some 5, some 5, some 5, some 5, none, none, none, some 9, some 9,
      none] := by decide

/-- SET ALTERNATE (1, 3) of that case ends DONE with detail 1, and B becomes F. -/
theorem test_set_alternate :
    let s : State := { ready with station := { table := some (StationTable.of alternates) } }
    let t := s.commandWrite 8 7 [1, 3]
    (t.station.table.map fun x => x.effective[1]) = some (some 5) ∧
    (t.path.iwq.map fun e => (vecByte e.data 32, vecByte e.data 33, vecByte e.data 36)) = [(7, 1, 1)] := by
  decide +kernel

/-- Spec 03, "a line inside an arrow pane": row 50, column 105, source base + 10560. -/
theorem test_arrow_line :
    glyphLine ((Vector.replicate 64 ({} : Glyph)).set 2 { base := 0x1000, width := 16, height := 256 }) 2 10 5 =
      .subst (0x1000 + 10560) := by decide

/-- Spec 03, "a countdown of eight minutes": column 2 of 5 is the units digit, column 4 is fill. -/
theorem test_countdown_line :
    let glyphs := ((Vector.replicate 64 ({} : Glyph)).set 32 { base := 0x1000, width := 2, height := 64 }).set 40
      { base := 0x8000, width := 2, height := 64 }
    let p : Pane := { kind := .countdown, x := 60, w := 5, y := 900, h := 64 }
    paneLine glyphs p (.digits 32 40) 910 60 = .subst (0x1000 + 1280) ∧
    paneLine glyphs p (.digits 32 40) 910 62 = .subst (0x8000 + 1280) ∧
    paneLine glyphs p (.digits 32 40) 910 64 = .fill := by decide

/-- Spec 03, "a small page on a large screen". -/
theorem test_small_page :
    let o : Override := .page 0 false 0x20000000 5120 720
    overrideLine o 100 10 = .subst (0x20000000 + 512640) ∧ overrideLine o 100 90 = .fill ∧
    overrideLine o 800 0 = .fill := by decide

/-- Spec 09, "a small ring", steps 2 to 4. -/
def smallRing : NoticeUnit :=
  { ring := { base := 0, count := 16, watermark := 4 }, head := 12, tail := 0, urgent := some 15, irq := true }

def withHead (u : NoticeUnit) (h : Byte) : NoticeUnit := { u with desc := (Vector.replicate 10 (0 : Byte)).set 8 h }

theorem test_head_index :
    let u2 := (withHead smallRing 14).testHead
    let u3 := (withHead u2 2).testHead
    let u4 := (withHead u3 0).testHead
    (u2.head, u2.urgent, u2.irq, u2.badHead) = (14, some 15, true, 0) ∧
    (u3.head, u3.urgent, u3.irq, u3.badHead) = (14, some 15, true, 1) ∧
    (u4.head, u4.urgent, u4.irq, u4.badHead) = (0, none, false, 1) := by decide

/-- Spec 07, "now, next and a backward shift". -/
def listed : List ListEntry :=
  [{ index := 2, start := 5160, finish := 5250, category := 2, deck := 4, featured := false, venue := 0, lead := 0 },
    { index := 11, start := 5170, finish := 5230, category := 5, deck := 4, featured := false, venue := 0, lead := 0 },
    { index := 7, start := 5220, finish := 5280, category := 0, deck := 4, featured := false, venue := 0, lead := 0 }]

def screen6 : Screen := { screen0 with conf := { screen0.conf with kind := .programme } }

theorem test_selections :
    let at_ (day minute : Nat) : ProgUnit := { clockSet := true, day := day, sec := minute * 60, order := listed }
    (at_ 3 892).select screen6 = some { now := some 2, next := some 7, countdown := some 8 } ∧
    (at_ 3 835).select screen6 = some { now := none, next := some 2, countdown := some 5 } ∧
    (at_ 3 900).select screen6 = some { now := some 2, next := none, countdown := none } := by decide

/-- Spec 07, the clock reaches 14:55 with a shift of −60 pending: 13:55, and the shift is cleared. -/
theorem test_backward_shift :
    let s : State := { ready with prog := { ready.prog with
      day := 3, sec := 53699, phase := 1000, shift := some { day := 3, minute := 895, minutes := -60 } } }
    (s.clockTick.prog.sec, s.clockTick.prog.shift) = (50100, none) := by decide +kernel

/-- Spec 07, "scheduling shifts", steps 1 and 4: outcome REFUSED_RANGE. -/
theorem test_shift_refused :
    (ready.commandWrite 13 1 [3, 1430, 15]).cmd.last.outcome = 3 ∧
    (ready.commandWrite 13 1 [3, 120, BitVec.ofInt 32 (-20)]).cmd.last.outcome = 3 := by decide +kernel

/-- Spec 08, "one line in a muster": cabin 0 shows letter E, flags cleared; cabin 1, of unknown home, 15. -/
theorem test_rewrite :
    let table := StationTable.of ((Vector.replicate 12 ({} : Station)).set 1 { closed := true, alternate := some 4 })
    let s : State := { inState .muster with
      station := { table := some table }, cabin := { cabins := [{ home := some 1 }, {}] } }
    let d : LineData := ((Vector.replicate 64 (9 : Byte)).set 0 3)
    let r := s.rewriteCabinLine 0 d
    (r[0], r[1], r[2], r[3], r[32], r[34], r[35], r[36]) = (0, 9, 2, 4, 8, 2, 15, 9) := by decide

/-- Spec 04, "a blast at the gap limit": a fall at d = 150 with the mark set loses the count, d = 600 counts. -/
theorem test_gap_limit :
    let m : MusterUnit := { bell := .counting, count := 3, gapExpired := true }
    ((m.bellFall 150).bell, (m.bellFall 150).count) = (BellState.idle, 0) ∧
    ((m.bellFall 600).bell, (m.bellFall 600).count, (m.bellFall 600).gapExpired) = (BellState.counting, 4, false) := by
  decide

/-- Spec 04, "a general alarm during a drill": MUSTER with cause BELL and epoch 9. -/
theorem test_general_alarm :
    let s : State := { ready with muster :=
      { state := .drill, epoch := 8, bell := .counting, count := 7, highTimer := some 4000, gapTimer := some 1 } }
    (s.takeLongBlast.muster.state, s.takeLongBlast.muster.cause, s.takeLongBlast.muster.epoch,
      s.takeLongBlast.muster.count) = (MusterState.muster, MusterCause.bell, 9, 0) := by decide +kernel

/-- Spec 11, "checking a small ROM": no reason to reject it, SKIPPED, and a 64-entry ring at 0x10000000. -/
def smallRom : List Byte :=
  [0x80, 15, 0, 9, 8, 0, 0, 0, 0, 0x10, 64, 0, 8, 0, 12, 1, 0, 0, 5, 1]

theorem test_small_rom :
    startReason smallRom = .none ∧ (loadRecords smallRom).skipped = true ∧
    (checkContents control (loadRecords smallRom).staging).contents.ring =
      { base := 0x10000000, count := 64, watermark := 8 } := by decide +kernel

/-! ## Witnesses: states and operands that meet the hypotheses of each statement -/

def entry (a : Addr) (n : Nat) : PwqEntry := { addr := a, data := blank.data, en := blank.en, seq := n }

/-- `ready` with `n` writes in the PWQ, none of them outstanding. -/
def queued (n : Nat) : State :=
  { ready with path := { ready.path with pwq := List.replicate n (entry 0x40 0), seq := 1 } }

def plainWrite (n : Nat) : WriteReq := { tag := 0, first := 2, lines := List.replicate n blank }

/-- A WRITE to the last line of the protected store and the line after it. -/
def storeWrite : WriteReq := { tag := 0, first := 0x80000F, lines := [blank, blank] }

def addresses (req : WriteReq) : List Addr :=
  (List.range req.lines.length).map fun i => nthLine (lineAddr req.first) i

def readTracker (tag : Tag) (lines : List ReadLine) : Tracker := { tag, seq := 3, lines, failed := false }

/-- `ready` with one read in tracker 7. -/
def reading (t : Tracker) : State :=
  { ready with path := { ready.path with trackers := ready.path.trackers.set 7 (some t) } }

def issuedLine (a : Addr) (r : Resolution) : ReadLine := { addr := a, res := r, st := .issued 9 }

/-- `ready` with a window open. -/
def opened : State :=
  { ready with cmd := { ready.cmd with maint := some 0 }, lines := { ready.lines with maint := { deb := true } } }

theorem witness_StepRunsFrontCommand :
    ({ ready with pending := [.arbiterGrant, .longBlast] } : State).pending = .arbiterGrant :: [.longBlast] ∧
    ready.pending = [] := by decide

/-- A memory fault changes line 2 of the status block. -/
theorem witness_EveryCommandAnswersNext_status :
    let s : State := { queued 1 with path := { (queued 1).path with pwqTimer := some 0 } }
    ∃ t, exec (.pwqWriteAnswer .error) s = .next t ∧ s.started = true ∧ t.started = true ∧
      s.statusLine 2 ≠ t.statusLine 2 :=
  ⟨_, rfl, by decide, by decide +kernel, by decide +kernel⟩

theorem witness_QueuesBoundedKept :
    (queued 32).QueuesBounded ∧ step (queued 32) = .next (queued 32).tick := by
  refine ⟨?_, rfl⟩
  unfold State.QueuesBounded
  decide

theorem witness_MusterGuardsKept :
    (opened.WindowGuarded ∧ step opened = .next opened.tick) ∧
    (inState .muster).LineObeyed ∧ step (inState .muster) = .next (inState .muster).tick := by
  refine ⟨⟨?_, rfl⟩, ?_, rfl⟩
  · unfold State.WindowGuarded; decide
  · unfold State.LineObeyed; decide

/-- A part in MUSTER whose one screen is covered. -/
def covered : State :=
  { inState .muster with
    muster := { state := .muster, epoch := 5, shown := true }
    screen := { screens := [{ screen0 with
      watch := .lit, dark := some 0, covered := true
      plan := some { variant := .muster, epoch := 5, override := .fill, entries := [], faultMark := false } }] } }

theorem witness_ShownFollowsKept :
    (covered.ShownFollows ∧ covered.CoveredSound ∧ covered.screen.allCovered = true) ∧
    step covered = .next covered.tick := by
  refine ⟨⟨by unfold State.ShownFollows; decide, fun sc h _ => ?_, by decide⟩, rfl⟩
  obtain rfl := List.mem_singleton.1 h
  exact ⟨rfl, _, rfl, rfl⟩

theorem witness_WorkSoundKept :
    let s : State := { ready with route := { ready.route with work := [0] } }
    s.WorkSound ∧ step s = .next s.tick := by
  refine ⟨⟨⟨by decide, fun c h => ?_⟩, by decide, by decide⟩, rfl⟩
  cases h

theorem witness_RingSoundKept :
    let s : State := { ready with notice := { ready.notice with head := 14, tail := 1, urgent := some 15, irq := true } }
    s.RingSound ∧ step s = .next s.tick := by
  refine ⟨⟨by unfold RingConf.Sound; decide, fun c h => (by cases h), by decide, by decide, fun j h => ?_, by decide⟩, rfl⟩
  obtain rfl : 15 = j := by simpa using h
  decide

theorem witness_PendingSoundKept :
    let s : State := { ready with cabin := { cabins := [{}, { pend := .routine }], pend := [1] } }
    s.PendingSound ∧ step s = .next s.tick := by
  refine ⟨⟨by decide, fun i => ?_, by simp⟩, rfl⟩
  match i with
  | 0 => simp
  | 1 => simp
  | n + 2 => simp

theorem witness_TablesSoundKept :
    (ready.StationsSound ∧ step ready = .next ready.tick) ∧ ready.ListSound := by
  have order : ready.prog.order = [] := rfl
  have shadow : ready.prog.shadow = List.replicate 256 {} := rfl
  have table : ready.station.table = some (StationTable.of (Vector.replicate 12 {})) := rfl
  refine ⟨⟨fun t h => ?_, rfl⟩, by simp [order], by simp [order], fun i => ?_, by simp [order]⟩
  · obtain rfl := Option.some.inj (table.symm.trans h)
    rfl
  · simp only [order, shadow, List.map_nil, List.not_mem_nil, false_iff, not_exists, not_and]
    intro e h
    rw [List.eq_of_mem_replicate (List.mem_of_getElem? h)]
    decide

theorem witness_MusterLeftOnlyByAllClear :
    (inState .muster).muster.state = .muster ∧ (inState .muster).started = true ∧
    ∃ t, exec (.allClear 0 1) (inState .muster) = .next t ∧ t.muster.state ≠ .muster := by
  refine ⟨rfl, by decide, _, rfl, ?_⟩
  have h := congrArg (fun u : State => u.muster.state)
    (settle_follows (inState .muster) ((inState .muster).commandWrite 4 1 [])).1
  change (settle _ _).muster.state = _ at h
  rw [h]
  decide +kernel

theorem witness_ClosedWindowGuardsStore :
    ready.cmd.maint = none ∧ ∃ t, exec (.pspWrite (plainWrite 1)) ready = .next t ∧ t.path.pwq ≠ [] := by
  refine ⟨rfl, _, rfl, ?_⟩
  have h := congrArg (fun u : State => u.path.pwq)
    (settle_follows ready (ready.writeArrives (lineAddr (plainWrite 1).first) (plainWrite 1).lines)).1
  change (settle _ _).path.pwq = _ at h
  rw [h]
  decide +kernel

theorem witness_RetryLeavesNoTrace :
    State.reset.started = false ∧
    ((queued 29).protectionCheck (addresses (plainWrite 4)) = none ∧
      (queued 29).path.pwqFree < (plainWrite 4).lines.length) ∧
    ∀ i : Fin 8, ({ ready with path := { ready.path with
      trackers := Vector.replicate 8 (some (readTracker 0 [])) } } : State).path.trackers[i] ≠ none := by
  decide +kernel

theorem witness_WriteAccepted :
    (queued 28).started = true ∧ (queued 28).protectionCheck (addresses (plainWrite 4)) = none ∧
    (plainWrite 4).lines.length ≤ (queued 28).path.pwqFree ∧
    (∀ i < 4, (queued 28).cfg.classOf (nthLine (lineAddr (plainWrite 4).first) i) = .plain) ∧
    opened.protectionCheck (addresses storeWrite) = none ∧
    opened.cfg.classOf (nthLine (lineAddr storeWrite.first) 0) = .protect ∧
    opened.cfg.classOf (nthLine (lineAddr storeWrite.first) 1) = .plain := by
  decide +kernel

/-- One line of the control block, at line `k`. -/
def controlWrite (k : Nat) (w : WriteLine) : WriteReq := { tag := 0, first := 0xFC0000 + BitVec.ofNat 26 k, lines := [w] }

/-- The ring descriptor without and with its head index, and the tail word. -/
theorem witness_WriteAccepted_ring :
    lineAddr (controlWrite 1 blank).first = control + 64 ∧ control.toNat + 4096 ≤ 4294967296 ∧
    ready.cfg.control = some control ∧ ready.protectionCheck (addresses (controlWrite 1 blank)) = none ∧
    ((enablesAt 0 8)[8] = false ∧ (enablesAt 0 8)[9] = false) ∧ blank.en[8] = true ∧
    lineAddr (controlWrite 2 blank).first = control + 128 ∧
    ready.cfg.classOf (lineAddr (controlWrite 2 blank).first) = .control := by decide +kernel

/-- In the slot: argument bytes alone, code 0, and a sequence number beside a code that the copy holds. -/
theorem witness_WriteAccepted_slot :
    let copy : Vector Byte 28 := (Vector.replicate 28 (0 : Byte)).set 0 6
    lineAddr (controlWrite 0 blank).first = control ∧
    ready.protectionCheck (addresses (controlWrite 0 blank)) = none ∧
    (∀ i : Fin 4, (enablesAt 4 24)[i] = false) ∧ ((enablesAt 1 1)[1] = true ∧ copy[0] ≠ 0) ∧
    (blank.en[0] = true ∧ blank.data[0] = 0) ∧ ready.cmd.executing = false ∧
    slotCommand (.stationClose 0 copy[1] 0) = some (copy[0], copy[1], [0]) ∧ number4 (vecByte copy) 4 = 0 := by
  decide +kernel

theorem witness_ProtectedWriteDropped :
    (ready.started = true ∧ ready.cmd.maint = none ∧
      (addresses storeWrite).find? (fun x => decide (ready.cfg.classOf x = .protect)) = some 0x200003C0) ∧
    opened.started = true ∧ opened.cmd.maint.isSome = true ∧
    (∃ x ∈ addresses { tag := 0, first := 0x800000, lines := [blank, blank] }, opened.cfg.classOf x = .protect) ∧
    (addresses { tag := 0, first := 0x800000, lines := [blank, blank] }).find? opened.inLiveExtent =
      some 0x20000040 :=
  ⟨by decide +kernel, by decide, rfl, ⟨0x20000000, by decide +kernel, by decide +kernel⟩, by decide +kernel⟩

theorem witness_ReadAccepted :
    ready.started = true ∧ ready.cfg.tags[0] = .general ∧ ready.cfg.tags[2] = .corridor ∧
    (∃ i : Fin 8, ready.path.trackers[i] = none) ∧
    -- A tag bound to a screen beyond the one that is present.
    (let s : State := { ready with cfg := { ready.cfg with tags := ready.cfg.tags.set 5 (.scanout 1) } }
     s.cfg.tags[5] = .scanout 1 ∧ s.screen.screens[1]? = none) := by decide +kernel

theorem witness_FrameStartLatchesPlan :
    ready.started = true ∧ ready.cfg.tags[1] = .scanout 0 ∧ ready.screen.screens[0]? = some screen0 ∧
    screen0.conf.base = lineAddr 0x400000 ∧ 0 < screen0.conf.rows * screen0.conf.stride ∧
    ∃ k : Fin 8, ready.path.trackers[k] = none := by decide +kernel

/-- A plan with a glyph, a caption and a page. -/
def plan0 : Plan :=
  { variant := .none, epoch := 0, override := .page 0 false 0x20000000 128 4
    entries := [.glyph 2, .caption 0x5000], faultMark := false }

theorem witness_PlanLineSources :
    let glyphs := (Vector.replicate 64 ({} : Glyph)).set 2 { base := 0x1000, width := 1, height := 1 }
    planLine glyphs screen0.conf.panes plan0 0 0 = .subst 0x1000 ∧
    planLine glyphs screen0.conf.panes plan0 0 1 = .subst 0x5000 ∧
    planLine glyphs screen0.conf.panes plan0 3 1 = .subst (0x20000000 + 448) := by decide

theorem witness_ArbiterGrants :
    (queued 1).path.pwq = entry 0x40 0 :: [] ∧ (queued 1).path.pwqTimer = none ∧
    ∀ c, (queued 1).hasWork c = true → c = .pwqHead := by
  refine ⟨rfl, rfl, fun c => ?_⟩
  cases c <;> decide +kernel

def tailWrite : IwqEntry := { kind := .tail, addr := control + 128, data := blank.data, en := enablesAt 0 4 }

theorem witness_QueueHeadsLeave :
    (let s : State := { queued 2 with path := { (queued 2).path with pwqTimer := some 0 } }
     s.path.pwq = entry 0x40 0 :: [entry 0x40 0] ∧ s.path.pwqTimer = some 0) ∧
    (let l : ReadLine := { addr := 0x40, res := .pass, st := .held 0 }
     l.st = .held (entry 0x40 0).seq ∧ l.source = (entry 0x40 0).addr) ∧
    (let l : OwnLine := { addr := 0x40, st := .held 0 }
     l.st = .held (entry 0x40 0).seq ∧ l.addr = (entry 0x40 0).addr) ∧
    (let s : State := { ready with path := { ready.path with iwq := [tailWrite], iwqTimer := some 10 } }
     s.path.iwq = tailWrite :: [] ∧ s.path.iwqTimer = some 10) := by decide +kernel

/-- A corridor read of the first line of the cabin window, in tracker 7. -/
def corridorRead : State := reading (readTracker 2 [issuedLine 0x30020000 .pass])

theorem witness_LinesArrive :
    (let t := readTracker 0 [issuedLine 0x80 .pass]
     (reading t).path.trackers[7] = some t ∧ t.lines[0]? = some (issuedLine 0x80 .pass) ∧
      (issuedLine 0x80 .pass).st = .issued 9 ∧ (reading t).cfg.tags[t.tag] ≠ .corridor) ∧
    corridorRead.path.trackers[7] = some (readTracker 2 [issuedLine 0x30020000 .pass]) ∧
    corridorRead.cfg.tags[2] = .corridor ∧ corridorRead.cfg.classOf 0x30020000 = .cabin ∧
    indexIn corridorRead.cfg.cabin 0x30020000 = 0 ∧ corridorRead.cabin.cabins[0]? = some { home := some 2 } ∧
    ∀ w, ({ home := some 2 } : Cabin).lastWrite = some w → w < 3 := by
  refine ⟨by decide +kernel, by decide +kernel, by decide +kernel, by decide +kernel, by decide +kernel, rfl, ?_⟩
  intro w h
  cases h

theorem witness_CabinRecordRewritten :
    (inState .muster).cabin.cabins[2 * 0 + (0 : Fin 2).val]? = some { home := some 2 } ∧
    (inState .muster).cabin.cabins[2 * 0 + (1 : Fin 2).val]? = some {} ∧
    (inState .muster).cabin.cabins.length ≤ 2 * 1 + (0 : Fin 2).val ∧ (inState .muster).muster.state = .muster ∧
    (inState .drill).muster.state = .drill ∧ (inState .standdown).muster.state = .standdown ∧
    ready.muster.state = .normal ∧ (some (2 : StationIx)).bind (inState .muster).effective = some 2 := by
  decide +kernel

theorem witness_LineFails :
    (let t := readTracker 0 [issuedLine 0x80 .pass, { addr := 0xC0, res := .pass, st := .ready }]
     (reading t).path.trackers[7] = some t ∧ t.lines[0]? = some (issuedLine 0x80 .pass) ∧
      (issuedLine 0x80 .pass).res = .pass) ∧
    (let t := readTracker 1 [issuedLine 0x10000000 (.subst 0x1000)]
     (reading t).path.trackers[7] = some t ∧ t.lines[0]? = some (issuedLine 0x10000000 (.subst 0x1000)) ∧
      (reading t).boundScreen t.tag = some 0 ∧ (reading t).screen.screens[0]? = some screen0) := by
  decide +kernel

theorem witness_ReadAnswered :
    let done := readTracker 0 [{ addr := 0x80, res := .pass, st := .arrived blank.data }]
    let bad : Tracker := { readTracker 0 [{ addr := 0x80, res := .pass, st := .failed }] with failed := true }
    (reading done).path.trackers[7] = some done ∧ (reading bad).path.trackers[7] = some bad ∧
    (∀ (j : Fin 8) (u : Tracker), (reading done).path.trackers[j] = some u → u.tag = done.tag → done.seq ≤ u.seq) ∧
    done.failed = false ∧ done.lines.map ReadLine.st = [blank.data].map LineState.arrived ∧
    bad.failed = true ∧ (∀ q ∈ bad.lines, ∀ n, q.st ≠ .issued n) ∧
    (∃ q ∈ (readTracker 0 [{ addr := 0x80, res := .pass, st := .issued 0 }]).lines, ∃ n, q.st = .issued n) := by
  refine ⟨rfl, rfl, fun j u h _ => ?_, rfl, rfl, rfl, ?_, _, List.mem_singleton.2 rfl, 0, rfl⟩
  · have : ∀ j : Fin 8, (reading (readTracker 0 [{ addr := 0x80, res := .pass, st := .arrived blank.data }])).path.trackers[j] = none ∨
        (reading (readTracker 0 [{ addr := 0x80, res := .pass, st := .arrived blank.data }])).path.trackers[j] =
          some (readTracker 0 [{ addr := 0x80, res := .pass, st := .arrived blank.data }]) := by decide +kernel
    rcases this j with e | e
    · rw [e] at h; cases h
    · rw [e] at h; cases h; exact le_rfl
  · intro q hq n e
    simp only [readTracker, List.mem_singleton] at hq
    rw [hq] at e
    cases e

/-- An own read with one line issued and one waiting, in own-read tracker `k`. -/
def ownLines : List OwnLine := [{ addr := 0x20000200, st := .issued 10 }, { addr := 0x20000240, st := .ready }]

def ownReading (k : Fin 2) (l : List OwnLine) : State :=
  { ready with path := { ready.path with own := ready.path.own.set k (some l) } }

theorem witness_OwnLineAnswered :
    (ownReading 1 ownLines).path.own[1] = some ownLines ∧
    ownLines[0]? = some { addr := 0x20000200, st := .issued 10 } ∧
    ownLines[1]? = some { addr := 0x20000240, st := .ready } ∧ LineState.ready.inFlight = true := by
  decide +kernel

theorem witness_TimeoutIsError :
    (some 10 : Option Nat) = ({ ready with path := { ready.path with pwqTimer := some 10 } } : State).path.pwqTimer ∧
    (some 9 : Option Nat) = ({ ready with path := { ready.path with iwqTimer := some 9 } } : State).path.iwqTimer ∧
    (reading (readTracker 0 [issuedLine 0x80 .pass])).path.readState 7 0 = some (.issued 9) ∧
    (ownReading 0 ownLines).path.ownState 0 0 = some (.issued 10) ∧ ready.cfg.timing.memoryTenths = 10 := by
  decide +kernel

def routineNotice : Notice :=
  { kind := .screenLit, urgent := false, subject := 0, detail := 0, epoch := 0, stamp := 0 }

def urgentNotice : Notice := { routineNotice with urgent := true }

theorem witness_NoticeQueued :
    ({ queue := List.replicate 63 routineNotice } : NoticeUnit).queue.length < 64 ∧
    (let u : NoticeUnit := { queue := [urgentNotice] ++ routineNotice :: List.replicate 62 urgentNotice }
     64 ≤ u.queue.length ∧ urgentNotice.urgent = true ∧ ∀ x ∈ [urgentNotice], x.urgent = true) ∧
    (let u : NoticeUnit := { queue := List.replicate 64 urgentNotice }
     64 ≤ u.queue.length ∧ ∀ x ∈ u.queue, x.urgent = true) := by decide +kernel

theorem witness_WriterTurns :
    (let s : State := { ready with
        notice := { ready.notice with queue := [urgentNotice], head := 1, tail := 15 }
        path := { ready.path with iwq := List.replicate 14 tailWrite } }
     s.started = true ∧ s.cfg.control = some control ∧ s.notice.queue = urgentNotice :: [] ∧
      (s.notice.tail + s.notice.ring.count - s.notice.head) % s.notice.ring.count < s.notice.ring.count - 1 ∧
      s.path.iwq.length + 2 ≤ 16 ∧ s.notice.turnLines = [] ∧ s.notice.lastTurn = .ringTail) ∧
    (let s : State := { ready with
        notice := { ready.notice with dirty := Vector.replicate 7 true, lastTurn := .notices }
        path := { ready.path with iwq := List.replicate 9 tailWrite } }
     s.notice.turnLines = [] ∧ s.notice.lastTurn = .notices ∧ s.notice.dirtyLines ≠ [] ∧
      s.path.iwq.length + s.notice.dirtyLines.length ≤ 16) ∧
    (let s : State := { ready with
        notice := { ready.notice with tailDue := true, lastTurn := .status }
        path := { ready.path with iwq := List.replicate 15 tailWrite } }
     s.notice.turnLines = [] ∧ s.notice.lastTurn = .status ∧ s.notice.tailDue = true ∧ s.path.iwq.length < 16) := by
  decide +kernel

/-- A status turn with room for one line of seven, one that goes on with two lines, the third turn passed over
for the first with one entry free, and no entry free. -/
theorem witness_WriterTurns_order :
    (let s : State := { ready with
        notice := { ready.notice with dirty := Vector.replicate 7 true, lastTurn := .notices }
        path := { ready.path with iwq := List.replicate 15 tailWrite } }
     s.notice.turnLines = [] ∧ s.path.iwq.length < 16 ∧ ((List.finRange 7).filter fun i => s.notice.dirty[i]) ≠ []) ∧
    (let s : State := { ready with
        notice := { ready.notice with turnLines := [5, 6], lastTurn := .status }
        path := { ready.path with iwq := List.replicate 15 tailWrite } }
     s.notice.turnLines = [5, 6] ∧ s.path.iwq.length < 16) ∧
    (let s : State := { ready with
        notice := { ready.notice with queue := [urgentNotice], tailDue := true, lastTurn := .ringTail }
        path := { ready.path with iwq := List.replicate 15 tailWrite } }
     s.notice.tailDue = true ∧ ¬ s.path.iwq.length + 2 ≤ 16 ∧ s.path.iwq.length < 16 ∧
      ∀ i : Fin 7, s.notice.dirty[i] = false) ∧
    16 ≤ ({ ready with path := { ready.path with iwq := List.replicate 16 tailWrite } } : State).path.iwq.length := by
  decide +kernel

/-- The low byte of a head index alone, over a copy that holds 3 in its high byte: it is tested as 0x0301. -/
theorem witness_HeadIndexTested_byte :
    let u : NoticeUnit := { ready.notice with desc := ready.notice.desc.set 9 3 }
    (true = true ∨ false = true) ∧ ((1 : BitVec 16).extractLsb' 0 8).toNat + 256 * u.desc[9].toNat = 0x301 ∧
    ¬ 0x301 < u.ring.count := by decide

theorem witness_HeadIndexTested :
    (queued 31).started = true ∧ (queued 31).cfg.control = some control ∧
    control.toNat + 4096 ≤ 4294967296 ∧ (queued 31).path.pwq.length < 32 := by decide +kernel

theorem witness_ProgrammeLineTaken :
    (queued 31).started = true ∧ (queued 31).cfg.programme = some { base := 0x30000000, lines := 4 } ∧
    (0x30000000 : Addr).toNat + 64 * 4 ≤ 4294967296 ∧
    (queued 31).cfg.classOf (0x30000000 + BitVec.ofNat 32 (64 * 3)) = .programme ∧
    (queued 31).path.pwq.length < 32 := by decide +kernel

theorem witness_NowNextAndCountdown :
    let p (m : Nat) : ProgUnit := { clockSet := true, day := 3, sec := m * 60, order := listed }
    let fits (e : ListEntry) : Bool :=
      screen6.conf.deckMask.getLsbD e.deck && screen6.conf.categoryMask.getLsbD e.category
    ((p 892).select screen6).isSome = true ∧ (p 892).order = listed.take 2 ++ listed[2] :: [] ∧
    fits listed[2] = true ∧ 3 * 1440 + 892 < listed[2].start ∧
    (∀ x ∈ listed.take 2, fits x = false ∨ x.start ≤ 3 * 1440 + 892) ∧
    (∃ x ∈ listed, fits x = true ∧ x.start ≤ 3 * 1440 + 892 ∧ 3 * 1440 + 892 < x.finish) ∧
    (∀ x ∈ listed, ¬ (fits x = true ∧ x.start ≤ 3 * 1440 ∧ 3 * 1440 < x.finish)) ∧
    (∀ x ∈ listed, ¬ 3 * 1440 + 1439 < x.start) ∧
    (({ clockSet := false } : ProgUnit).select screen6).isSome = true := by decide

theorem witness_SegmentLineTaken :
    (queued 31).cfg.segment = some { base := 0x30010000, lines := 1 } ∧
    (0x30010000 : Addr).toNat + 64 * 1 ≤ 4294967296 ∧
    (queued 31).cfg.classOf (0x30010000 + BitVec.ofNat 32 (64 * 0)) = .segment ∧
    (queued 31).started = true ∧ (queued 31).path.pwq.length < 32 := by decide +kernel

theorem witness_CabinLineTaken :
    (queued 31).cfg.cabin = some { base := 0x30020000, lines := 1 } ∧
    (0x30020000 : Addr).toNat + 64 * 1 ≤ 4294967296 ∧
    (queued 31).cfg.classOf (0x30020000 + BitVec.ofNat 32 (64 * 0)) = .cabin ∧ (queued 31).started = true ∧
    (queued 31).muster.state = .normal ∧ (queued 31).path.pwq.length < 32 ∧
    (queued 31).cabin.cabins[2 * 0 + 1]? = some ({} : Cabin) ∧
    ({} : Cabin).lastRefresh.toNat + (queued 31).cfg.timing.refreshSeconds < 4294967296 := by decide +kernel

theorem witness_ExecutingSlot :
    (let s : State := { queued 31 with cmd := { ready.cmd with executing := true } }
     slotCommand (.rescan 0 9 2) = some (16, 9, [2]) ∧ s.started = true ∧ s.cfg.control = some control ∧
      s.cmd.executing = true ∧ s.path.pwq.length < 32) ∧
    (let s : State := { ready with
        cmd := { ready.cmd with held := some { outcome := .done } }
        path := { ready.path with iwq := List.replicate 15 tailWrite } }
     s.cfg.control = some control ∧ s.cmd.held = some { outcome := .done } ∧ s.path.iwq.length < 16) := by
  decide +kernel

/-- A command that ends in an IDLE slot while the IWQ is full, and one that goes on. -/
theorem witness_ExecutingSlot_full :
    let s : State := { queued 31 with path := { (queued 31).path with iwq := List.replicate 16 tailWrite } }
    slotCommand (.cancelShift 0 9) = some (14, 9, []) ∧ slotCommand (.rescan 0 9 1) = some (16, 9, [1]) ∧
    s.started = true ∧ s.cfg.control = some control ∧ s.cmd.executing = false ∧ s.path.pwq.length < 32 ∧
    16 ≤ s.path.iwq.length ∧
    (({ s with path := { s.path with iwq := [] } } : State).commandWrite 14 9 []).cmd.executing = false ∧
    (({ s with path := { s.path with iwq := [] } } : State).commandWrite 16 9 [1]).cmd.executing = true := by
  decide +kernel

/-- The slot is open in `ready`, and with one entry free in each queue. -/
theorem ready_open : ready.slotOpen control ∧ (queued 31).slotOpen control :=
  ⟨⟨by decide, rfl, rfl, by decide, by decide⟩, ⟨by decide, rfl, rfl, by decide, by decide⟩⟩

theorem state_open (m : MusterState) : (inState m).slotOpen control := ready_open.1

theorem witness_MusterCommands :
    ((inState .muster).slotOpen control ∧ (inState .muster).muster.state = .muster ∧
      (inState .muster).lines.muster.deb = false) ∧
    ((inState .drill).slotOpen control ∧ (inState .drill).muster.state = .drill) ∧
    ((inState .standdown).slotOpen control ∧ (inState .standdown).muster.state = .standdown) ∧
    (ready.slotOpen control ∧ ready.muster.state = .normal) ∧
    (let s : State := { inState .muster with lines := { ready.lines with muster := { deb := true } } }
     s.slotOpen control ∧ s.muster.state = .muster ∧ s.lines.muster.deb = true) :=
  ⟨⟨state_open _, rfl, rfl⟩, ⟨state_open _, rfl⟩, ⟨state_open _, rfl⟩, ⟨ready_open.1, rfl⟩, state_open .muster, rfl, rfl⟩

/-- A cabin that is URGENT and notified already when the muster state changes. -/
theorem witness_MusterCommandsChangeState_urgent :
    let c : Cabin := { home := some 2, pend := .urgent, eligible := 7, notified := true }
    let s : State := { ready with cabin := { cabins := [c], pend := [0] } }
    s.slotOpen control ∧ s.cabin.cabins[0]? = some c ∧ c.pend = .urgent := ⟨ready_open.1, rfl, rfl⟩

/-- A drill that closes the maintenance window, reports its coverage at once and makes a cabin URGENT. -/
theorem witness_MusterCommandsChangeState_notices :
    opened.slotOpen control ∧ opened.muster.state = .normal ∧ opened.cmd.maint ≠ none ∧
    (isAlert .drill && opened.isReady) = true ∧ (∀ q ∈ opened.screen.screens, q.watch ≠ .lit ∨ q.covered = true) ∧
    opened.cabin.cabins[0]? = some { home := some 2 } :=
  ⟨ready_open.1, rfl, by decide, rfl, by decide, rfl⟩

theorem witness_StationCommandsDone :
    (queued 31).slotOpen control ∧ (queued 31).station.table = some (StationTable.of (Vector.replicate 12 {})) ∧
    (queued 31).cabin.cabins[0]? = some { home := some 2 } := ⟨ready_open.2, rfl, rfl⟩

/-- Each depth of alternates occurs in the spec's table. -/
theorem witness_EffectiveStationByHops :
    alternates[0].closed = false ∧ (alternates[8].closed = true ∧ alternates[8].alternate = none) ∧
    (alternates[10].alternate = some 9 ∧ alternates[9].closed = false) ∧
    (alternates[3].alternate = some 4 ∧ alternates[4].alternate = some 5 ∧ alternates[5].closed = false) ∧
    (alternates[1].alternate = some 2 ∧ alternates[2].alternate = some 3 ∧ alternates[3].alternate = some 4 ∧
      alternates[4].closed = true) := by decide

theorem witness_PublishPageFlips :
    (queued 31).slotOpen control ∧ (queued 31).isReady = true ∧ (queued 31).muster.state = .normal ∧
    ((11 : Word).toNat < 12 ∧ (3 : Word).toNat < 4 ∧ (2 : Word).toNat < 3) := ⟨ready_open.2, rfl, rfl, by decide⟩

theorem witness_WindowCommands :
    (let s : State := { ready with lines := { ready.lines with maint := { deb := true } } }
     s.slotOpen control ∧ s.isReady = true ∧ s.lines.maint.deb = true ∧ s.muster.state = .normal ∧
      s.cmd.maint = none) ∧
    (opened.slotOpen control ∧ opened.isReady = true ∧ opened.cmd.maint.isSome = true ∧
      opened.lines.maint.deb = true ∧ opened.muster.state = .normal) ∧
    (ready.slotOpen control ∧ ready.lines.maint.deb = false ∧ ready.cmd.maint = none) ∧
    (let s : State := { inState .drill with lines := { ready.lines with maint := { deb := true } } }
     s.slotOpen control ∧ s.isReady = true ∧ s.lines.maint.deb = true ∧ s.muster.state ≠ .normal) :=
  ⟨⟨ready_open.1, rfl, rfl, rfl, rfl⟩, ⟨ready_open.1, rfl, rfl, rfl, rfl⟩, ⟨ready_open.1, rfl, rfl⟩,
    state_open .drill, rfl, rfl, by decide⟩

theorem witness_ClockCommandsDone :
    (queued 31).slotOpen control ∧ ((255 : Word).toNat ≤ 255 ∧ (86399 : Word).toNat ≤ 86399) ∧
    ((255 : Word).toNat ≤ 255 ∧ (120 : Word).toNat ≤ 1439 ∧ (BitVec.ofInt 32 (-120)).toInt ≠ 0 ∧
      (BitVec.ofInt 32 (-120)).toInt % 15 = 0 ∧ -120 ≤ (BitVec.ofInt 32 (-120)).toInt ∧
      (BitVec.ofInt 32 (-120)).toInt ≤ 120 ∧ 0 ≤ ((120 : Word).toNat : Int) + (BitVec.ofInt 32 (-120)).toInt ∧
      ((120 : Word).toNat : Int) + (BitVec.ofInt 32 (-120)).toInt ≤ 1439) ∧
    (queued 31).prog.clockSet = true := ⟨ready_open.2, by decide, by decide, rfl⟩

theorem witness_DefaultTargetSet :
    (queued 31).slotOpen control ∧ (queued 31).isReady = true ∧ (queued 31).screen.screens[0]? = some screen0 ∧
    (31 : Word).toNat ≤ 31 ∧ (queued 31).prog.sel[0]? = some (some { featured := some 2 }) :=
  ⟨ready_open.2, rfl, rfl, by decide, rfl⟩

/-- A rescan of the segment table whose one line is issued. -/
def rescanning (fault : Bool) : State :=
  { ready with
    cmd := { ready.cmd with
      executing := true
      rescan := some { table := .segments, nextLine := 1, rebuilt := 0, first := 0, count := 1
                       touched := List.replicate 64 false } }
    path := { ready.path with
      iwq := List.replicate 15 tailWrite
      own := ready.path.own.set 1 (some ({ addr := 0x30010000, st := .issued 0 } ::
        if fault then [{ addr := 0x30010040, st := .failed }] else [])) } }

theorem witness_RescanRuns :
    ((queued 31).slotOpen control ∧ (queued 31).isReady = true ∧ scanTableOf (2 : Word).toNat = some .cabins ∧
      (queued 31).cfg.windowOf .cabins = some { base := 0x30020000, lines := 1 }) ∧
    ((rescanning false).cmd.held = none ∧ (rescanning false).path.iwq.length < 16 ∧
      (rescanning false).cfg.windowOf .segments = some { base := 0x30010000, lines := 1 } ∧
      (rescanning false).path.own[1] = some [{ addr := 0x30010000, st := .issued 0 }]) ∧
    ((rescanning true).path.own[1] =
        some [{ addr := 0x30010000, st := .issued 0 }, { addr := 0x30010040, st := .failed }] ∧
      LineState.failed.inFlight = false ∧ ({ addr := 0x30010040, st := .failed } : OwnLine).handed = none) :=
  ⟨⟨ready_open.2, rfl, by decide, rfl⟩, by decide +kernel, by decide +kernel⟩

/-- `ready` with a descriptor of the largest ring in the copy. -/
def newRing : State :=
  { ready with notice := { ready.notice with
    head := 5, tail := 5, desc := #v[0, 0, 0, 0x10, 0, 4, 0xFF, 3, 0, 0] } }

theorem witness_SetRingMoves :
    newRing.slotOpen control ∧ newRing.notice.head = newRing.notice.tail ∧ 16 ≤ newRing.notice.descCount ∧
    newRing.notice.descCount ≤ 1024 ∧ 1 ≤ newRing.notice.descWatermark ∧
    newRing.notice.descWatermark ≤ newRing.notice.descCount - 1 ∧
    newRing.notice.descBase.toNat + newRing.notice.descCount * 16 ≤ 4294967296 :=
  ⟨ready_open.1, by decide +kernel⟩

/-- The part in DEGRADED, with its slot open. -/
def degraded : State :=
  { loader := { phase := .degraded }, cfg := { control := some control }, muster := { state := .normal } }

theorem witness_CommandsWithoutEffect :
    (ready.slotOpen control ∧ 18 ≤ (18 : Byte).toNat) ∧
    degraded.slotOpen control ∧ degraded.loader.phase = .degraded ∧ degraded.station.table = none :=
  ⟨⟨ready_open.1, by decide⟩, ⟨by decide, rfl, rfl, by decide, by decide⟩, rfl, rfl⟩

def withLines (ls : Lines) : State := { ready with lines := ls }

theorem witness_FiltersFollowPins :
    (let f := (withLines { fire := (Vector.replicate 8 ({} : Filter)).set 7 { raw := true, degCount := 20 } }).lines.get (.fire 7)
     f.raw ≠ f.deg ∧ 20 ≤ f.degCount) ∧
    (let f := (withLines { muster := { raw := true, degCount := 19 } }).lines.get .muster
     f.degCount < 20) ∧ State.reset.started = false := by decide +kernel

/-- `ready` with BELL about to fall in a recogniser state. -/
def falling (m : MusterUnit) : State :=
  { withLines { bell := { raw := false, deg := true, degCount := 20 } } with muster := m }

theorem witness_BellRecogniser :
    (let s := falling { state := .normal, bell := .counting, count := 3, highTimer := some 1999, gapTimer := some 0 }
     s.started = true ∧ s.lines.bell.raw ≠ s.lines.bell.deg ∧ 20 ≤ s.lines.bell.degCount ∧
      s.lines.bell.raw = false ∧ s.muster.highTimer = some 1999 ∧ s.muster.bell = .counting) ∧
    ((falling { state := .normal, highTimer := some 300 }).muster.bell = .idle ∧
      (falling { state := .normal, highTimer := some 299 }).muster.bell = .idle ∧
      (falling { state := .normal, highTimer := some 3999 }).muster.highTimer = some 3999 ∧
      (falling { state := .normal, bell := .long }).muster.bell = .long) ∧
    (let s := withLines { bell := { raw := true, degCount := 20 } }
     s.lines.bell.raw = true ∧ s.lines.bell.raw ≠ s.lines.bell.deg ∧ s.muster.bell ≠ .long) ∧
    ({ ready with muster := { state := .normal, bell := .counting, gapTimer := some 3000 } } : State).muster.gapTimer =
      some 3000 := by decide +kernel

theorem witness_LongBlastActs :
    (let m : MusterUnit := { state := .normal, bell := .counting, count := 7, highTimer := some 4000 }
     m.bell ≠ .long ∧ m.highTimer = some 4000 ∧ 4000 ≤ 4000 ∧ 7 ≤ m.count ∧ m.state = .normal) ∧
    (let m : MusterUnit := { state := .muster, bell := .counting, count := 7, highTimer := some 4000 }
     7 ≤ m.count ∧ m.state = .muster) ∧
    (let m : MusterUnit := { state := .normal, bell := .counting, count := 6, highTimer := some 4000 }
     m.bell ≠ .long ∧ m.count < 7) := by decide

theorem witness_DebouncedLevelsAct :
    (let s := withLines { muster := { deg := true, debCount := 200 } }
     s.started = true ∧ s.lines.muster.deg = true ∧ s.lines.muster.deb = false ∧ 200 ≤ s.lines.muster.debCount ∧
      s.muster.state = .normal) ∧
    (let s := withLines { muster := { deb := true, debCount := 200 }, maint := { deb := true, debCount := 200 } }
     s.lines.muster.deg = false ∧ s.lines.muster.deb = true ∧ s.lines.maint.deg = false ∧ s.lines.maint.deb = true ∧
      200 ≤ s.lines.maint.debCount ∧ s.cmd.maint = none) ∧
    ({ withLines { maint := { deb := true, debCount := 200 } } with cmd := { maint := some 5 } } : State).cmd.maint.isSome =
      true ∧
    (let s := withLines { fire := (Vector.replicate 8 ({} : Filter)).set 7 { deg := true, debCount := 100 } }
     s.isReady = true ∧ s.lines.fire[7].deg ≠ s.lines.fire[7].deb ∧ 100 ≤ s.lines.fire[7].debCount) := by
  decide +kernel

theorem witness_TimersExpire :
    (let s : State := { ready with muster := { state := .standdown, standdown := some 900000 } }
     s.muster.state = .standdown ∧ s.muster.standdown = some 900000 ∧
      s.cfg.timing.standdownMinutes * 60000 ≤ 900000) ∧
    (let s : State := { opened with cmd := { opened.cmd with maint := some 1800000 } }
     s.cmd.maint = some 1800000 ∧ s.cfg.timing.maintMinutes * 60000 ≤ 1800000) := by decide +kernel

theorem witness_DarkTimerExpires :
    let s : State := { ready with screen := { ready.screen with screens := [{ screen0 with dark := some 2000 }] } }
    s.screen.screens[0]? = some { screen0 with dark := some 2000 } ∧ s.cfg.timing.darkMs ≤ 2000 ∧
    s.muster.state ≠ .undecided ∧
    -- The last LIT screen of a drill that is not yet reported.
    (let s : State := { inState .drill with
       screen := { screens := [{ screen0 with watch := .lit, dark := some 2000 }], mark := true } }
     s.screen.screens[0]? = some { screen0 with watch := .lit, dark := some 2000 } ∧
      s.cfg.timing.darkMs ≤ 2000 ∧ s.screen.mark = true ∧ s.muster.state = .drill) := by decide +kernel

/-- `ready` at the end of a second of its clock. -/
def clockAt (sec : Nat) (shift : Option Shift) : State :=
  { ready with prog := { ready.prog with day := 3, sec := sec, phase := 1000, shift := shift } }

theorem witness_ClocksAdvance :
    ((clockAt 60 none).prog.clockSet = true ∧ 1000 ≤ (clockAt 60 none).prog.phase ∧
      (∀ h, (clockAt 60 none).prog.shift = some h → ¬ (3 = h.day ∧ 61 = h.minute * 60)) ∧ 61 % 60 ≠ 0) ∧
    ((∀ h, (clockAt 86399 none).prog.shift = some h → ¬ (4 = h.day ∧ 0 = h.minute * 60)) ∧ 0 % 60 = 0) ∧
    (clockAt 53699 (some { day := 3, minute := 895, minutes := -60 })).prog.shift =
      some { day := 3, minute := 895, minutes := -60 } ∧
    (let s : State := { ready with time := { ready.time with uptimePhase := 1000, uptime := 0xFFFFFFFF } }
     s.started = true ∧ 1000 ≤ s.time.uptimePhase) := by
  refine ⟨⟨rfl, by decide, fun h e => ?_, by decide⟩, ⟨fun h e => ?_, by decide⟩, rfl, by decide⟩ <;> cases e

theorem witness_RouteComputationStarts :
    (let s : State := { ready with route := { ready.route with work := [0] } }
     s.route.flight = none ∧ s.route.work = 0 :: [] ∧ s.screen.screens[0]? = some screen0 ∧
      s.presentTarget 0 screen0 = .at 2 ∧ s.route.tableBase = some 0x20000200) ∧
    (inState .standdown).presentTarget 0 screen0 = .noTarget ∧
    ({ inState .muster with station := {} } : State).presentTarget 0 screen0 = .none ∧
    ({ ready with route := {} } : State).route.tableBase = none := by decide +kernel

/-- A route fetch with one line arrived and one issued. -/
def fetching : State :=
  { ownReading 0 [{ addr := 0x20000300, st := .arrived blank.data }, { addr := 0x20000340, st := .issued 0 }] with
    route := { ready.route with flight := some { screen := 0, target := 2 } } }

theorem witness_RouteEvaluated :
    fetching.route.flight = some { screen := 0, target := 2 } ∧ fetching.screen.screens[0]? = some screen0 ∧
    fetching.presentTarget 0 screen0 = .at 2 ∧
    fetching.path.own[0] =
      some [{ addr := 0x20000300, st := .arrived blank.data }, { addr := 0x20000340, st := .issued 0 }] := by
  decide +kernel

/-- Two lines with two valid candidates: segments 0 and 2, and segment 1; the others are invalid. -/
def candidates : LineData :=
  Vector.ofFn fun i => ([1, 4, 2, 0, 0, 2].getD i.val 0) + (if i.val = 32 then 1 else if i.val = 33 then 6 else
    if i.val = 34 then 1 else if i.val = 36 then 1 else 0)

theorem witness_EvaluationSelects :
    readCandidate 4 candidates blank.data 0 = some { glyph := 4, ids := [0, 2] } ∧
    readCandidate 4 candidates blank.data 1 = some { glyph := 6, ids := [1] } ∧
    readCandidate 4 candidates blank.data 2 = none ∧
    (∀ g ∈ ready.route.listed { glyph := 4, ids := [0, 2] }, ready.route.available .muster g = true) ∧
    ready.route.evaluate .muster .none 2 candidates blank.data = .selected 2 1 24 6 := by decide +kernel

theorem witness_SegmentCosts :
    let g : Segment := { length := 1000, kind := .stairUp, zone := 8, soft := .restricted }
    g.soft = .restricted ∧ 1 ≤ g.length ∧ g.length ≤ 1000 ∧ segmentCost g = 12000 := by decide

theorem witness_ResetAndRelease : State.reset.loader.phase = .reset := rfl

/-- A part in LOAD and in CHECK. -/
def inPhase (p : Phase) : State := { loader := { phase := p, sinceRelease := 220 } }

theorem witness_RomLoadDecides :
    (inPhase .load).loader.phase = .load ∧ ¬ (romByte [0x40] 0).extractLsb' 6 2 = 2#2 ∧
    ((romByte smallRom 0).extractLsb' 6 2 = 2#2 ∧ romSum smallRom = romStoredSum smallRom ∧
      (loadRecords smallRom).malformed = false) ∧
    romSum [0x80, 0, 0, 0, 0] ≠ romStoredSum [0x80, 0, 0, 0, 0] ∧
    (romSum [0x80, 1, 0, 5, 0x86, 0] = romStoredSum [0x80, 1, 0, 5, 0x86, 0] ∧
      (loadRecords [0x80, 1, 0, 5, 0x86, 0]).malformed = true) := by decide +kernel

theorem witness_StartUpEnds :
    (let s := inPhase .check
     s.loader.phase = .check ∧ 220 ≤ s.loader.sinceRelease ∧ s.loader.checked = none ∧ s.lines.muster.deb = false) ∧
    (let c := (checkContents control (loadRecords smallRom).staging).contents
     let s : State := { loader := { phase := .check, sinceRelease := 220, checked := some c } }
     s.loader.checked = some c ∧ s.lines.muster.deb = false) ∧
    ({ inPhase .check with lines := { muster := { deb := true } } } : State).lines.muster.deb = true :=
  ⟨by decide +kernel, ⟨rfl, rfl⟩, rfl⟩

/-! ## Witnesses of the further clauses of statements with several -/

theorem witness_StepRunsFrontCommand_tick :
    State.reset.loader.phase = .reset ∧
    (ready.loader.phase ≠ .reset ∧ ({ ready with time := { ready.time with tenth := 8 } } : State).time.tenth < 9 ∧
      9 ≤ ({ ready with time := { ready.time with tenth := 9 } } : State).time.tenth ∧ ready.started = true) ∧
    ((inPhase .load).loader.phase ≠ .reset ∧ (inPhase .load).started = false) ∧
    (reading (readTracker 0 [issuedLine 0x80 .pass])).path.readState 7 0 = some (.issued 9) ∧
    (ownReading 1 ownLines).path.ownState 1 1 = some .ready ∧ ∀ n, LineState.ready ≠ .issued n :=
  ⟨rfl, by decide, by decide, by decide +kernel, by decide +kernel, fun _ h => by cases h⟩

/-- `ready` with its one screen DARK and the report mark set, in DRILL. -/
def darkScreen : State :=
  { inState .drill with screen := { screens := [{ screen0 with plan := some plan0, watch := .dark }], mark := true } }

/-- The last line of the frame, and the lines next to the frame on either side. -/
theorem witness_FrameStartLatchesPlan_lines :
    (let a := (lineAddr 0x400007).toNat
     screen0.conf.base.toNat ≤ a ∧ a - screen0.conf.base.toNat < screen0.conf.rows * screen0.conf.stride ∧
      a - screen0.conf.base.toNat ≠ 0) ∧
    (let a := (lineAddr 0x400008).toNat
     ¬ a - screen0.conf.base.toNat < screen0.conf.rows * screen0.conf.stride) ∧
    ¬ screen0.conf.base.toNat ≤ (lineAddr 0x3FFFFF).toNat ∧ screen0.plan = none ∧
    -- A read of four lines from the line below the frame: its second line starts the frame.
    lineAddr 0x3FFFFF + BitVec.ofNat 32 (64 * 1) = screen0.conf.base ∧
    (darkScreen.cfg.tags[1] = .scanout 0 ∧ darkScreen.muster.state ≠ .undecided ∧ darkScreen.screen.mark = true ∧
      darkScreen.screen.screens[0]? = some { screen0 with plan := some plan0, watch := .dark }) ∧
    (ready.muster.state = .normal ∧ (inState .muster).muster.state = .muster ∧
      (inState .standdown).muster.state = .standdown) := by decide +kernel

theorem witness_PlanLineSources_panes :
    let arrow : Pane := { kind := .arrow, x := 0, w := 1, y := 0, h := 1 }
    let banner : Pane := { kind := .banner, x := 1, w := 1, y := 0, h := 1 }
    screen0.conf.panes.zip plan0.entries = [] ++ (arrow, .glyph 2) :: [(banner, .caption 0x5000)] ∧
    screen0.conf.panes.zip plan0.entries = [(arrow, .glyph 2)] ++ (banner, .caption 0x5000) :: [] ∧
    (arrow.y ≤ 0 ∧ 0 < arrow.y + arrow.h ∧ arrow.x ≤ 0 ∧ 0 < arrow.x + arrow.w ∧ ¬ 1 < arrow.x + arrow.w) ∧
    (banner.x ≤ 1 ∧ 1 < banner.x + banner.w ∧ ¬ 2 < banner.x + banner.w) := by decide

/-- A grant with both rings at work, and the bound of eight high-ring grants reached. -/
def granting (high : Nat) : State :=
  let s := reading (readTracker 1 [{ addr := 0x10000000, res := .subst 0x40, st := .ready }])
  { s with path := { s.path with pwq := [entry 0x40 0], highCount := high } }

/-- The sources with work, in the order of the fixed cycle. -/
def working (s : State) : List Source := [Source.scanout, .otherReads, .pwqHead, .own].filter s.hasWork

theorem witness_ArbiterGrants_rings :
    (working (granting 8) = [.scanout, .pwqHead] ∧ (granting 8).path.highCount = 8 ∧
      (granting 7).path.highCount ≠ 8 ∧ ready.cfg.tags[1] = .scanout 0) ∧
    working (reading (readTracker 0 [{ addr := 0x80, res := .pass, st := .ready }])) = [.otherReads] ∧
    (let s : State := { ownReading 1 ownLines with path := { (ownReading 1 ownLines).path with iwq := [tailWrite] } }
     working s = [.own] ∧ s.path.iwqNext = true ∧ s.path.iwqTimer = none ∧ s.path.own[0] = none) ∧
    working (ownReading 0 ownLines) = [.own] ∧ working ready = [] := by decide +kernel

/-- A station recomputation of the instant has given cabin 0 its URGENT cause. -/
theorem witness_LinesArrive_urgent :
    let c : Cabin := { home := some 2, pend := .urgent, notified := true }
    let s : State := { corridorRead with cabin := { cabins := [c, {}], pend := [0] } }
    s.path.trackers[7] = some (readTracker 2 [issuedLine 0x30020000 .pass]) ∧ s.cabin.cabins[2 * 0]? = some c ∧
    s.cfg.tags[2] = .corridor ∧ c.lastWrite = none := by decide +kernel

/-- R145, the station recomputation first: the cause is given, and the complete refresh clears it; its notice
stands. -/
theorem test_refresh_clears_station_cause :
    let s : State := { ready with time := { ready.time with uptime := 40 } }
    let t := s.stationCauses [2]
    let u := t.observeRefresh 0 3
    t.cabin.cabins = [{ home := some 2, pend := .urgent, eligible := 40, notified := true }, {}] ∧
    t.cabin.pend = [0] ∧ t.notice.queue.map Notice.kind = [.cabinRefresh] ∧
    u.cabin.cabins = [{ home := some 2, lastRefresh := 40, eligible := 40 }, {}] ∧ u.cabin.pend = [] ∧
    u.notice.queue = t.notice.queue := by decide +kernel

/-- A write to the record was accepted with the read's own number or after it: an incomplete refresh. -/
theorem witness_LinesArrive_incomplete :
    let s : State := { corridorRead with cabin := { cabins := [{ home := some 2, lastWrite := some 3 }, {}] } }
    s.path.trackers[7] = some (readTracker 2 [issuedLine 0x30020000 .pass]) ∧
    s.cabin.cabins[0]? = some { home := some 2, lastWrite := some 3 } ∧
    (readTracker 2 [issuedLine 0x30020000 .pass]).seq ≤ 3 ∧
    s.time.uptime.toNat + s.cfg.timing.refreshSeconds < 4294967296 ∧ 0 < s.cfg.timing.refreshSeconds := by
  decide +kernel

theorem witness_LineFails_plan :
    (let sc : Screen := { screen0 with plan := some plan0 }
     let s : State := { reading (readTracker 1 [issuedLine 0x10000000 (.subst 0x1000)]) with
       screen := { screens := [sc] } }
     s.boundScreen 1 = some 0 ∧ s.screen.screens[0]? = some sc ∧ sc.plan = some plan0 ∧ plan0.faultMark = false) ∧
    ready.boundScreen 0 = none := by decide +kernel

/-- A featured entry that starts within its lead, at the lead's end and one minute before it. -/
theorem witness_NowNextAndCountdown_featured :
    let e : ListEntry := { index := 3, start := 1060, finish := 1100, category := 2, deck := 4, featured := true
                           venue := 19, lead := 60 }
    let p (m : Nat) : ProgUnit := { clockSet := true, day := 0, sec := m * 60, order := [e] }
    screen0.conf.kind = .wayfinding ∧ (p 1000).order = [] ++ e :: [] ∧
    (screen0.conf.deckMask.getLsbD 4 = true ∧ screen0.conf.categoryMask.getLsbD 2 = true) ∧
    e.start ≤ 1000 + e.lead ∧ ¬ e.start ≤ 999 + e.lead ∧
    (p 1000).select screen0 = some { now := none, next := some 3, countdown := some 60, featured := some 31 } ∧
    (p 999).select screen0 = some { now := none, next := some 3, countdown := some 61, featured := some 2 } := by
  decide

theorem witness_CabinLineTaken_outside :
    let s : State := { queued 31 with muster := { state := .drill } }
    s.muster.state = .drill ∧ s.cabin.cabins[0]? = some { home := some 2 } ∧
    ((some (2 : StationIx)).bind s.effective).map Fin.val = some 2 ∧
    ((some (3 : StationIx)).bind s.effective).map Fin.val = some 3 ∧ (3 : Byte).toNat < 12 ∧ 11 < (12 : Byte).toNat := by
  decide +kernel

theorem witness_StationCommandsDone_changed :
    let closed := (Vector.replicate 12 ({} : Station)).set 2 { closed := true }
    (allEffective (Vector.replicate 12 {}))[2] = some 2 ∧ (allEffective closed)[2] = none ∧
    (allEffective closed)[3] = some 3 := by decide +kernel

/-- A rescan of a table whose first line is issued, with lines of the window left to read. -/
def rescanningOn (table : ScanTable) : State :=
  { rescanning false with cmd := { ready.cmd with
      executing := true
      rescan := some { table, nextLine := 3, rebuilt := 0, first := 2, count := 1
                       touched := List.replicate (unitsPerLine table) false } } }

theorem witness_RescanRuns_next :
    (let s := rescanningOn .programme
     s.cmd.rescan.map Rescan.nextLine = some 3 ∧ s.cfg.windowOf .programme = some { base := 0x30000000, lines := 4 } ∧
      s.cfg.control = some control ∧ s.path.own[1] = some [{ addr := 0x30010000, st := .issued 0 }] ∧
      (none : Option LineData) ∉
        [({ addr := 0x30010000, st := .arrived blank.data } : OwnLine)].map OwnLine.handed) ∧
    (let s := rescanningOn .cabins
     s.cfg.windowOf .cabins = some { base := 0x30020000, lines := 1 } ∧ 1 ≤ 3) := by decide +kernel

theorem witness_CommandsWithoutEffect_ready :
    (ready.slotOpen control ∧ ready.isReady = true ∧ ready.station.table ≠ none) ∧
    (12 ≤ (12 : Word).toNat ∧ (12 : Word) ≠ 255 ∧ 255 < (256 : Word).toNat ∧ 86399 < (86400 : Word).toNat) ∧
    ((15 : Word).toInt ≠ 0 ∧ (15 : Word).toInt % 15 = 0 ∧ (1424 : Word).toNat ≤ 1439 ∧
      ((1424 : Word).toNat : Int) + (15 : Word).toInt ≤ 1439 ∧
      ¬ ((1425 : Word).toNat : Int) + (15 : Word).toInt ≤ 1439) ∧
    ({ ready with prog := { ready.prog with clockSet := false } } : State).prog.clockSet = false ∧
    ((inState .drill).isReady = true ∧ (inState .drill).muster.state ≠ .normal) ∧
    (ready.screen.screens.length ≤ (1 : Word).toNat ∧ 31 < (32 : Word).toNat ∧ 2 < (3 : Word).toNat) ∧
    (({ ready with cfg := { ready.cfg with cabin := none } } : State).cfg.windowOf .cabins = none ∧
      scanTableOf (2 : Word).toNat = some .cabins) ∧
    (({ ready with notice := { ready.notice with head := 5 } } : State).notice.head ≠ 0 ∧
      ready.notice.head = ready.notice.tail ∧ ready.notice.descCount < 16) ∧
    ready.cfg.control = some (lineAddr 0xFC0000) ∧ ready.path.pwq.length < 32 :=
  ⟨⟨ready_open.1, rfl, by decide⟩, by decide, by decide, rfl, by decide, by decide, by decide,
    ⟨by decide, rfl, by decide +kernel⟩, by decide, by decide⟩

theorem witness_DebouncedLevelsAct_repeat :
    let s : State := { inState .muster with lines := { muster := { deg := true, debCount := 200 } } }
    s.started = true ∧ s.lines.muster.deg = true ∧ s.lines.muster.deb = false ∧ 200 ≤ s.lines.muster.debCount ∧
    s.muster.state = .muster := by decide

/-- A rise of MAINT, a level before start-up has ended, and a FIRE ZONE level in DEGRADED. -/
theorem witness_DebouncedLevelsAct_level :
    (let s := withLines { maint := { deg := true, debCount := 200 } }
     s.started = true ∧ s.lines.maint.deg = true ∧ s.lines.maint.deb = false ∧ 200 ≤ s.lines.maint.debCount) ∧
    (let s : State := { inPhase .check with lines := { muster := { deg := true, debCount := 200 } } }
     s.started = false ∧ 200 ≤ (s.lines.get .muster).debCount ∧
      (s.lines.get .muster).deg ≠ (s.lines.get .muster).deb) ∧
    (let s : State := { degraded with
       lines := { fire := (Vector.replicate 8 ({} : Filter)).set 0 { deg := true, debCount := 100 } } }
     s.loader.phase = .degraded ∧ 100 ≤ (s.lines.get (.fire 0)).debCount ∧
      (s.lines.get (.fire 0)).deg ≠ (s.lines.get (.fire 0)).deb) := by decide +kernel

/-- The fetch's target is still the present one, or another, or no target, or NONE. -/
theorem witness_RouteEvaluated_target :
    (fetching.presentTarget 0 screen0 ≠ .at 5 ∧ fetching.route.tableBase = some 0x20000200) ∧
    ({ fetching with muster := { state := .standdown } } : State).presentTarget 0 screen0 = .noTarget ∧
    ({ fetching with muster := { state := .drill }, station := {} } : State).presentTarget 0 screen0 = .none ∧
    (LineState.arrived blank.data).inFlight = false := by decide +kernel

/-- A present result whose candidate is still available, with no cheaper one below the threshold. -/
theorem witness_EvaluationSelects_kept :
    ready.route.evaluate .normal (.selected 2 1 24 6) 2 candidates blank.data = .selected 2 1 24 6 ∧
    ready.route.evaluate .normal (.selected 2 0 65 4) 2 candidates blank.data = .selected 2 1 24 6 ∧
    ready.route.evaluate .normal .none 2 blank.data blank.data = .noRoute (some 2) := by decide +kernel

theorem witness_StartUpEnds_muster :
    let c := (checkContents control (loadRecords smallRom).staging).contents
    let s : State := { loader := { phase := .check, sinceRelease := 220, checked := some c }
                       lines := { muster := { deb := true } } }
    s.loader.phase = .check ∧ 220 ≤ s.loader.sinceRelease ∧ s.loader.checked = some c ∧ s.lines.muster.deb = true :=
  ⟨rfl, by decide, rfl, rfl⟩

end Sys2Proof.Tests
end

/-! SUPPORT. What coverage depends on, which operations can move it, and why each of them leaves MUSTER_SHOWN at
its condition and the covered flags at LIT screens with a plan of the present variant (R47, R48). -/

namespace Sys2Proof.Machine

open Sys2Proof

/-! ## What coverage depends on (R47, R48) -/

/-- What coverage sees of a screen: its watch state, its covered flag and the variant of its plan. -/
def Screen.face (sc : Screen) : Watch × Bool × Option Variant := (sc.watch, sc.covered, sc.plan.map Plan.variant)

/-- A screen that is covered only where it is LIT with a plan of variant `v` (R47). -/
def Screen.CoverSound (v : Variant) (sc : Screen) : Prop :=
  sc.covered = true → sc.watch = .lit ∧ sc.plan.map Plan.variant = some v

theorem Screen.CoverSound.of_face {v : Variant} {a b : Screen} (h : a.CoverSound v) (e : b.face = a.face) :
    b.CoverSound v := by
  simp only [Screen.face, Prod.mk.injEq] at e
  obtain ⟨watch, covered, plan⟩ := e
  unfold Screen.CoverSound
  rw [watch, covered, plan]
  exact h

/-- The covered flags are sound exactly where each screen's is, for the variant of the present state (R39). -/
theorem State.coveredSound_iff (s : State) :
    s.CoveredSound ↔ ∀ sc ∈ s.screen.screens, sc.CoverSound (variantOf s.muster.state) := by
  constructor
  · intro h sc hsc hc
    obtain ⟨lit, p, hp, hv⟩ := h sc hsc hc
    exact ⟨lit, by rw [hp, Option.map_some, hv]; cases s.muster.state <;> rfl⟩
  · intro h sc hsc hc
    obtain ⟨lit, hv⟩ := h sc hsc hc
    obtain ⟨p, hp, hv⟩ := Option.map_eq_some_iff.1 hv
    exact ⟨lit, p, hp, hv.trans (by cases s.muster.state <;> rfl)⟩

/-- "All LIT screens covered" is a matter of the screens' faces. -/
theorem ScreenUnit.allCovered_eq (u : ScreenUnit) :
    u.allCovered = (u.screens.map Screen.face).all fun f => decide (f.1 ≠ .lit) || f.2.1 := by
  rw [List.all_map]
  rfl

/-- A re-evaluated covered flag is sound (R47). -/
theorem Screen.evalCovered_sound (v : Variant) (sc : Screen) : (sc.evalCovered v).CoverSound v := by
  intro h
  simp only [Screen.evalCovered, Screen.isCovered, Bool.and_eq_true, decide_eq_true_eq] at h
  obtain ⟨lit, hv⟩ := h
  refine ⟨lit, ?_⟩
  cases hp : sc.plan with
  | none => simp [hp] at hv
  | some p => simpa [Screen.evalCovered, hp] using hv

/-- From `s` to `t` nothing that coverage depends on has changed. -/
structure SameCoverage (s t : State) : Prop where
  state : t.muster.state = s.muster.state
  shown : t.muster.shown = s.muster.shown
  faces : t.screen.screens.map Screen.face = s.screen.screens.map Screen.face

/-- From `s` to `t` both invariants of coverage are kept. -/
structure KeepsCoverage (s t : State) : Prop where
  shown : s.ShownFollows → t.ShownFollows
  sound : s.CoveredSound → t.CoveredSound

theorem SameCoverage.keeps {s t : State} (h : SameCoverage s t) : KeepsCoverage s t where
  shown hs := by
    unfold State.ShownFollows State.shownCondition at *
    rw [h.state, h.shown, ScreenUnit.allCovered_eq, h.faces, ← ScreenUnit.allCovered_eq, hs]
  sound hs := by
    rw [State.coveredSound_iff] at *
    intro sc hsc
    have hf : sc.face ∈ s.screen.screens.map Screen.face := h.faces ▸ List.mem_map_of_mem hsc
    obtain ⟨old, hold, e⟩ := List.mem_map.1 hf
    rw [h.state]
    exact (hs old hold).of_face e.symm

theorem KeepsCoverage.refl (s : State) : KeepsCoverage s s := ⟨id, id⟩

theorem KeepsCoverage.trans {s t u : State} (h : KeepsCoverage s t) (g : KeepsCoverage t u) : KeepsCoverage s u :=
  ⟨g.shown ∘ h.shown, g.sound ∘ h.sound⟩

/-- An operation outside the Muster controller and the Screen unit keeps coverage. -/
theorem KeepsCoverage.of_blocks {s t : State} (muster : t.muster = s.muster) (screen : t.screen = s.screen) :
    KeepsCoverage s t :=
  SameCoverage.keeps ⟨by rw [muster], by rw [muster], by rw [screen]⟩

/-- What keeps coverage keeps it too after such an operation. -/
theorem KeepsCoverage.after_blocks {s t u : State} (h : KeepsCoverage t u) (muster : t.muster = s.muster)
    (screen : t.screen = s.screen) : KeepsCoverage s u :=
  (KeepsCoverage.of_blocks muster screen).trans h

/-- An operation on the Muster controller's other fields alone keeps coverage. -/
theorem KeepsCoverage.of_muster {s t : State} (state : t.muster.state = s.muster.state)
    (shown : t.muster.shown = s.muster.shown) (screen : t.screen = s.screen) : KeepsCoverage s t :=
  SameCoverage.keeps ⟨state, shown, by rw [screen]⟩

/-- A change of one screen that leaves its face keeps coverage. -/
theorem State.modScreen_keeps (s : State) (i : Nat) {f : Screen → Screen} (h : ∀ sc, (f sc).face = sc.face) :
    KeepsCoverage s (s.modScreen i f) := by
  refine SameCoverage.keeps ⟨rfl, rfl, List.ext_getElem? fun j => ?_⟩
  simp only [State.modScreen, List.getElem?_map, List.getElem?_modify]
  cases s.screen.screens[j]? with
  | none => rfl
  | some sc => by_cases e : i = j <;> simp [e, h]

/-- A fold of an operation that keeps coverage keeps it. -/
theorem foldl_keepsCoverage {β : Type} {f : State → β → State} (h : ∀ s b, KeepsCoverage s (f s b)) (l : List β)
    (s : State) : KeepsCoverage s (l.foldl f s) := by
  induction l generalizing s with
  | nil => exact .refl s
  | cons b l ih => exact (h s b).trans (ih (f s b))

/-! ## The coverage event and the screen watch (R38, R46 to R48) -/

/-- After a coverage event the line stands at its condition (R48). -/
theorem State.coverageEvent_shown (s : State) : s.coverageEvent.ShownFollows := rfl

/-- However one screen was changed before, the evaluation of its covered flag and the coverage event after it keep
both invariants (R47, R48). -/
theorem State.evalCovered_keeps (s : State) (i : Nat) (f : Screen → Screen) {t : State}
    (muster : t.muster.state = s.muster.state) (screens : t.screen.screens = (s.modScreen i f).screen.screens) :
    KeepsCoverage s (t.evalCoveredAt i).coverageEvent := by
  refine ⟨fun _ => State.coverageEvent_shown _, fun hs => ?_⟩
  rw [State.coveredSound_iff] at *
  intro sc hsc
  change sc ∈ t.screen.screens.modify i (Screen.evalCovered (variantOf t.muster.state)) at hsc
  change sc.CoverSound (variantOf t.muster.state)
  rw [muster] at *
  rw [screens, State.modScreen, List.modify_modify_eq] at hsc
  obtain ⟨j, hj⟩ := List.mem_iff_getElem?.1 hsc
  rw [List.getElem?_modify] at hj
  obtain ⟨old, hold, rfl⟩ := Option.map_eq_some_iff.1 hj
  split
  · exact Screen.evalCovered_sound _ (f old)
  · exact hs old (List.mem_of_getElem? hold)

theorem State.frameStart_keeps (s : State) (i : Nat) (sc : Screen) : KeepsCoverage s (s.frameStart i sc) :=
  State.evalCovered_keeps s i _ rfl rfl

theorem State.darkExpiry_keeps (s : State) (i : Nat) : KeepsCoverage s (s.darkExpiry i) := by
  unfold State.darkExpiry
  split
  · split
    · split
      · exact State.evalCovered_keeps s i _ rfl rfl
      · exact .refl s
    · exact .refl s
  · exact .refl s

/-! ## Changes of muster state (R61 to R69) -/

/-- A change of muster state drives the line and uncovers every screen (R48, R69). -/
theorem State.changeMuster_keeps (s : State) (m : MusterUnit) (o : Origin) :
    KeepsCoverage s (s.changeMuster m o) := by
  obtain ⟨⟨-, shown, screens, -⟩, -⟩ := changeMuster_changed s m o
  refine ⟨fun _ => shown, fun _ sc hsc hc => ?_⟩
  rw [screens] at hsc
  obtain ⟨old, -, rfl⟩ := List.mem_map.1 hsc
  exact absurd hc Bool.false_ne_true

theorem State.orderMuster_keeps (s : State) (c : MusterCause) : KeepsCoverage s (s.orderMuster c) := by
  unfold State.orderMuster
  split
  case h_4 => exact .of_muster rfl rfl rfl
  case h_5 => exact .refl s
  all_goals exact State.changeMuster_keeps ..

theorem State.standdownExpiry_keeps (s : State) : KeepsCoverage s s.standdownExpiry := by
  unfold State.standdownExpiry
  split
  · split
    · exact State.changeMuster_keeps ..
    · exact .refl s
  · exact .refl s

theorem State.decideMuster_keeps (s : State) : KeepsCoverage s s.decideMuster := by
  unfold State.decideMuster
  split
  · exact State.changeMuster_keeps ..
  · exact .refl s

/-! ## The bell recogniser (R54 to R58) -/

@[simp] theorem MusterUnit.bellRise_frame (m : MusterUnit) :
    m.bellRise.state = m.state ∧ m.bellRise.shown = m.shown := by
  unfold MusterUnit.bellRise
  split <;> exact ⟨rfl, rfl⟩

@[simp] theorem MusterUnit.bellFall_frame (m : MusterUnit) (d : Nat) :
    (m.bellFall d).state = m.state ∧ (m.bellFall d).shown = m.shown := by
  unfold MusterUnit.bellFall
  dsimp only
  repeat' split
  all_goals exact ⟨rfl, rfl⟩

theorem State.takeLongBlast_keeps (s : State) : KeepsCoverage s s.takeLongBlast := by
  unfold State.takeLongBlast
  split
  · have after : KeepsCoverage s { s with muster := s.muster.afterLong } := .of_muster rfl rfl rfl
    dsimp only
    split
    · exact after.trans ((State.orderMuster_keeps _ .bell).after_blocks rfl rfl)
    · exact after
  · exact .refl s

theorem State.bellChange_keeps (s : State) (level : Bool) : KeepsCoverage s (s.bellChange level) := by
  unfold State.bellChange
  split
  · exact .of_muster (by simp) (by simp) rfl
  · exact s.takeLongBlast_keeps.trans (.of_muster (by simp [State.takeBellFall]) (by simp [State.takeBellFall]) rfl)

theorem State.gapExpiry_keeps (s : State) : KeepsCoverage s s.gapExpiry := by
  unfold State.gapExpiry
  split
  · split
    · split
      · exact .of_muster rfl rfl rfl
      · exact .of_muster rfl rfl rfl
    · exact .refl s
  · exact .refl s

/-! ## The input lines (R50, R51) -/

theorem State.deglitch_keeps (s : State) (line : InputLine) : KeepsCoverage s (s.deglitch line) := by
  unfold State.deglitch
  dsimp only
  split
  · have taken (f : Filter) : KeepsCoverage s { s with lines := s.lines.put line f } := .of_blocks rfl rfl
    split
    · exact (taken _).trans (State.bellChange_keeps ..)
    · exact taken _
  · exact .refl s

theorem State.levelChange_keeps (s : State) (line : InputLine) (level : Bool) :
    KeepsCoverage s (s.levelChange line level) := by
  cases line with
  | bell => exact .refl s
  | muster =>
    cases level with
    | true => exact State.orderMuster_keeps s .line
    | false => exact .refl s
  | maint =>
    cases level with
    | true => exact .refl s
    | false => exact .of_blocks (by simp [State.levelChange]) (by simp [State.levelChange])
  | fire n =>
    unfold State.levelChange
    dsimp only
    split
    · exact .of_blocks (by simp) (by simp)
    · exact .refl s

theorem State.debounce_keeps (s : State) (line : InputLine) : KeepsCoverage s (s.debounce line) := by
  unfold State.debounce
  dsimp only
  split
  · have taken (f : Filter) : KeepsCoverage s { s with lines := s.lines.put line f } := .of_blocks rfl rfl
    split
    · exact (taken _).trans (State.levelChange_keeps ..)
    · exact taken _
  · exact .refl s

/-! ## The command slot (R147, R150) -/

/-- The result of a muster command leaves coverage alone. -/
theorem State.endMuster_keeps (s : State) (o : CmdOutcome) : KeepsCoverage s (s.endMuster o) :=
  .of_blocks (by simp) (by simp)

/-- A change of muster state that ends a command keeps coverage. -/
theorem State.changeMuster_endMuster_keeps (s : State) (m : MusterUnit) (g : Origin) (o : CmdOutcome) :
    KeepsCoverage s ((s.changeMuster m g).endMuster o) :=
  (s.changeMuster_keeps m g).trans (State.endMuster_keeps _ o)

theorem State.cmdDrillStart_keeps (s : State) : KeepsCoverage s s.cmdDrillStart := by
  unfold State.cmdDrillStart
  split
  · exact State.changeMuster_endMuster_keeps ..
  · exact State.endMuster_keeps ..

theorem State.cmdDrillEnd_keeps (s : State) : KeepsCoverage s s.cmdDrillEnd := by
  unfold State.cmdDrillEnd
  split
  · exact State.changeMuster_endMuster_keeps ..
  · exact State.endMuster_keeps ..

theorem State.cmdMusterOrder_keeps (s : State) : KeepsCoverage s s.cmdMusterOrder :=
  (s.orderMuster_keeps .command).trans (State.endMuster_keeps ..)

theorem State.cmdAllClear_keeps (s : State) : KeepsCoverage s s.cmdAllClear := by
  unfold State.cmdAllClear
  split
  · exact State.endMuster_keeps ..
  · split
    · exact State.endMuster_keeps ..
    · exact State.changeMuster_endMuster_keeps ..

theorem State.cmdStanddownEnd_keeps (s : State) : KeepsCoverage s s.cmdStanddownEnd := by
  unfold State.cmdStanddownEnd
  split
  · exact State.changeMuster_endMuster_keeps ..
  · exact State.endMuster_keeps ..

/-- SET DEFAULT TARGET changes a screen's default target alone (R151). -/
theorem State.cmdSetDefaultTarget_keeps (s : State) (i target : Nat) :
    KeepsCoverage s (s.cmdSetDefaultTarget i target) := by
  have refused (o : CmdOutcome) : KeepsCoverage s (s.endCommand { outcome := o }) := .of_blocks (by simp) (by simp)
  unfold State.cmdSetDefaultTarget
  split
  · exact refused _
  · split
    · exact refused _
    · split
      · exact refused _
      · exact (s.modScreen_keeps i (f := fun c => { c with defaultTarget := target }) fun _ => rfl).trans
          (.of_blocks (by simp) (by simp))

/-- The five muster commands change the muster state, SET DEFAULT TARGET a screen's default target, and every other
command neither block. -/
theorem State.startCommand_keeps (s : State) (code : Nat) : KeepsCoverage s (s.startCommand code) := by
  unfold State.startCommand
  split
  case h_1 => exact s.cmdDrillStart_keeps
  case h_2 => exact s.cmdDrillEnd_keeps
  case h_3 => exact s.cmdMusterOrder_keeps
  case h_4 => exact s.cmdAllClear_keeps
  case h_5 => exact s.cmdStanddownEnd_keeps
  case h_15 => exact s.cmdSetDefaultTarget_keeps _ _
  case h_18 => exact .of_blocks (by simp [State.cmdUnknown]) (by simp [State.cmdUnknown])
  all_goals exact .of_blocks (by simp) (by simp)

theorem State.actOnWord_keeps (s : State) : KeepsCoverage s s.actOnWord := by
  unfold State.actOnWord
  dsimp only
  split
  · exact .refl s
  · split
    · exact .of_blocks rfl rfl
    · exact (State.startCommand_keeps ..).after_blocks rfl rfl

theorem State.deliverSlot_keeps (s : State) (w : WriteLine) : KeepsCoverage s (s.deliverSlot w) := by
  have copied (c : Vector Byte 28) : KeepsCoverage s { s with cmd := { s.cmd with copy := c } } := .of_blocks rfl rfl
  unfold State.deliverSlot
  dsimp only
  split
  · exact (copied _).trans (State.actOnWord_keeps _)
  · exact copied _

/-! ## Writes at the PSP (R2, R20 to R22) -/

theorem State.deliverControl_keeps (s : State) (k : Nat) (w : WriteLine) :
    KeepsCoverage s (s.deliverControl k w) := by
  unfold State.deliverControl
  split
  · exact s.deliverSlot_keeps w
  · exact .of_blocks (by simp) (by simp)
  · exact .refl s

/-- Of the lines that are delivered only the command slot's can reach coverage. -/
theorem State.deliverLine_keeps (s : State) (seq : Nat) (a : Addr) (w : WriteLine) :
    KeepsCoverage s (s.deliverLine seq a w) := by
  unfold State.deliverLine
  dsimp only
  split
  · exact State.deliverControl_keeps ..
  all_goals exact .of_blocks (by simp) (by simp)

theorem State.writeArrives_keeps (s : State) (first : Addr) (lines : List WriteLine) :
    KeepsCoverage s (s.writeArrives first lines) := by
  unfold State.writeArrives
  dsimp only
  split
  · exact .of_blocks rfl rfl
  · split
    · exact .of_blocks (by simp) (by simp)
    · split
      · exact .of_blocks rfl rfl
      · have queued (l : List (Addr × WriteLine)) : KeepsCoverage s ((s.answerPsp .accept).enqueueWrite l) :=
          .of_blocks rfl rfl
        exact (queued _).trans (foldl_keepsCoverage (fun t _ => t.deliverLine_keeps ..) _ _)

theorem State.windowWrite_keeps (s : State) (w : Option Window) (k : Nat) (line : WriteLine) :
    KeepsCoverage s (s.windowWrite w k line) := by
  unfold State.windowWrite
  split
  · exact .of_blocks rfl rfl
  · split
    · split
      · exact s.writeArrives_keeps _ _
      · exact .refl s
    · exact .refl s

/-! ## Reads at the PSP and their answers (R5, R8, R12, R38, R44) -/

/-- A line of a read reaches coverage through a frame start alone (R38). -/
theorem State.resolveLine_keeps (s : State) (tag : Tag) (a : Addr) : KeepsCoverage s (s.resolveLine tag a).1 := by
  unfold State.resolveLine
  split
  · split
    · split
      · dsimp only
        split
        · exact s.frameStart_keeps _ _
        · exact .refl s
      · exact .refl s
    · exact .refl s
  · exact .refl s

theorem takeReadLines_keep (tag : Tag) (l : List Addr) (acc : State × List ReadLine) :
    KeepsCoverage acc.1 (l.foldl (takeReadLine tag) acc).1 := by
  induction l generalizing acc with
  | nil => exact .refl acc.1
  | cons a l ih => exact (acc.1.resolveLine_keeps tag a).trans (ih (takeReadLine tag acc a))

theorem State.readArrives_keeps (s : State) (tag : Tag) (first : Addr) (count : Nat) :
    KeepsCoverage s (s.readArrives tag first count) := by
  unfold State.readArrives
  split
  · exact .of_blocks rfl rfl
  · split
    · exact .of_blocks rfl rfl
    · exact (takeReadLines_keep tag _ (s, [])).trans (.of_blocks rfl rfl)

/-- A source fault counts at its screen and marks the plan; the plan's variant stands (R44). -/
theorem State.sourceFault_keeps (s : State) (tag : Tag) (a : Addr) : KeepsCoverage s (s.sourceFault tag a) := by
  unfold State.sourceFault
  split
  · split
    · refine (State.modScreen_keeps _ _ fun sc => ?_).after_blocks rfl rfl
      cases h : sc.plan <;> simp [Screen.face, h]
    · exact .refl s
  · exact .refl s

theorem State.lineFails_keeps (s : State) (i : Fin 8) (l : Nat) : KeepsCoverage s (s.lineFails i l) := by
  unfold State.lineFails
  split
  · split
    · split
      · split
        · exact (State.sourceFault_keeps ..).after_blocks rfl rfl
        · exact .of_blocks rfl rfl
        · exact .refl s
      · exact .refl s
    · exact .refl s
  · exact .refl s

theorem State.timeout_keeps (s : State) (r : MspRef) : KeepsCoverage s (s.timeout r) := by
  cases r with
  | readLine i l =>
    unfold State.timeout
    dsimp only
    split
    · exact s.lineFails_keeps i l.val
    · exact .refl s
  | pwqHead | iwqHead | ownLine k l =>
    unfold State.timeout
    dsimp only
    split
    · exact .of_blocks (by simp) (by simp)
    · exact .refl s

/-! ## Time, reset and start-up (R164 to R166) -/

/-- Time moves the timers of the Muster controller and of the screens, and no face (R45, R66). -/
theorem State.msTick_keeps (s : State) : KeepsCoverage s s.msTick := by
  unfold State.msTick
  dsimp only
  split
  · exact .refl s
  · split
    · exact SameCoverage.keeps ⟨rfl, rfl, by rw [List.map_map]; rfl⟩
    · exact .of_blocks rfl rfl

theorem State.tick_keeps (s : State) : KeepsCoverage s s.tick := by
  unfold State.tick
  dsimp only
  split
  · exact .refl s
  · split
    · exact .of_blocks rfl rfl
    · exact (State.msTick_keeps _).after_blocks rfl rfl

/-- A reset leaves no screen and no muster state, and the line deasserted (R29, R71). -/
theorem State.doReset_keeps (s : State) : KeepsCoverage s s.doReset :=
  ⟨fun _ => rfl, fun _ _ h => absurd h List.not_mem_nil⟩

theorem State.release_keeps (s : State) (strap1 strap0 : StrapLevel) : KeepsCoverage s (s.release strap1 strap0) := by
  unfold State.release
  split
  · exact .of_blocks rfl rfl
  · exact .refl s

theorem State.romLoaded_keeps (s : State) (rom : List Byte) : KeepsCoverage s (s.romLoaded rom) := by
  unfold State.romLoaded
  split
  · exact .of_blocks rfl rfl
  · exact .refl s

/-- Start-up begins in NORMAL with the line deasserted and every screen uncovered (R43, R60). -/
theorem State.startReady_keeps (s : State) (c : Contents) : KeepsCoverage s (s.startReady c) := by
  refine ⟨fun _ => rfl, fun _ sc hsc hc => ?_⟩
  obtain ⟨q, -, rfl⟩ := List.mem_map.1 (show sc ∈ c.screens.map startScreen from hsc)
  exact absurd hc Bool.false_ne_true

theorem State.startDegraded_keeps (s : State) : KeepsCoverage s s.startDegraded :=
  ⟨fun _ => rfl, fun _ _ h => absurd h List.not_mem_nil⟩

theorem State.startUpEnds_keeps (s : State) : KeepsCoverage s s.startUpEnds := by
  unfold State.startUpEnds
  split
  · split
    · exact (s.startReady_keeps _).trans (State.decideMuster_keeps _)
    · exact s.startDegraded_keeps.trans (State.decideMuster_keeps _)
  · exact .refl s

/-! ## Every step -/

/-- The status block's bookkeeping leaves coverage alone (R157). -/
theorem KeepsCoverage.settled {s u : State} (h : KeepsCoverage s u) (mark : Bool) :
    KeepsCoverage s (settleWith mark s u) := by
  obtain ⟨e, -⟩ := settleWith_follows mark s u
  exact h.trans (.of_blocks (by rw [e]) (by rw [e]))

/-- The next state of a command with its bookkeeping. -/
theorem KeepsCoverage.of_commit {s u t : State} (h : KeepsCoverage s u) (e : commit s u = .next t) :
    KeepsCoverage s t := by
  cases e
  exact h.settled true

theorem exec_keepsCoverage {c : Instr} {s t : State} (h : exec c s = .next t) : KeepsCoverage s t := by
  cases c with
  | pspWrite | headIndexWrite => exact .of_commit (s.writeArrives_keeps _ _) h
  | programmeLineWrite | segmentStatusWrite | cabinRecordWrite => exact .of_commit (s.windowWrite_keeps _ _ _) h
  | pspRead => exact .of_commit (s.readArrives_keeps _ _ _) h
  | readLineError => exact .of_commit (s.lineFails_keeps _ _) h
  | drillStart | drillEnd | musterOrder | allClear | standdownEnd | stationClose | stationOpen | setAlternate
  | publishPage | openWindow | closeWindow | setClock | scheduleShift | cancelShift | setDefaultTarget | rescan
  | setRing | unknownCommand => exact .of_commit (s.writeArrives_keeps _ _) h
  | deglitchExpiry line => exact .of_commit (s.deglitch_keeps line) h
  | debounceExpiry line => exact .of_commit (s.debounce_keeps line) h
  | longBlast => exact .of_commit s.takeLongBlast_keeps h
  | gapTimerExpiry => exact .of_commit s.gapExpiry_keeps h
  | standdownTimerExpiry => exact .of_commit s.standdownExpiry_keeps h
  | darkTimerExpiry screen => exact .of_commit (s.darkExpiry_keeps screen.val) h
  | resetRelease => exact .of_commit (s.release_keeps _ _) h
  | romLoadEnd rom => exact .of_commit (s.romLoaded_keeps rom) h
  | startUpEnd => exact .of_commit s.startUpEnds_keeps h
  | iwqWriteAnswer a =>
    cases h
    exact KeepsCoverage.settled (.of_blocks (by simp) (by simp)) false
  | memoryTimeout r =>
    cases h
    exact (s.timeout_keeps r).settled _
  | lateAnswer =>
    cases h
    exact .refl s
  | reset =>
    cases h
    exact s.doReset_keeps
  | arbiterGrant | pwqWriteAnswer | readLineData | readAnswer | ownReadLineAnswer | noticeWriterTurn
  | resultWordPlacement | rawLineChange | maintTimerExpiry | clockAdvance | uptimeSecond
  | routeComputationStart => exact .of_commit (.of_blocks (by simp) (by simp)) h

theorem step_keepsCoverage {s t : State} (h : step s = .next t) : KeepsCoverage s t := by
  unfold step at h
  split at h
  · cases h
    exact s.tick_keeps
  · exact (exec_keepsCoverage h).after_blocks rfl rfl

/-- Settles O6: each step keeps both invariants of coverage, since only frame starts, dark timers, changes of muster
state and the ends of reset and start-up move what they depend on, and each of these drives the line and evaluates
or clears the covered flags. -/
theorem shownFollowsKept : Obligations.ShownFollowsKept :=
  ⟨fun _ _ hs h => (step_keepsCoverage h).shown hs, fun _ _ hs h => (step_keepsCoverage h).sound hs⟩

end Sys2Proof.Machine

/-! SUPPORT. Where a hop along the alternates leads, and the effective station that the hops reach (R73). -/

namespace Sys2Proof.Machine

open Sys2Proof

variable {entries : Vector Station 12} {s a e : StationIx} {hops : Nat}

/-! ## One hop along the alternates (R73) -/

theorem followAlternates_zero : followAlternates entries 0 s = none := rfl

theorem followAlternates_succ_of_no_alternate (halt : entries[s].alternate = none) :
    followAlternates entries (hops + 1) s = none := by
  simp only [followAlternates, halt]

/-- A hop that reaches `a` ends there where `a` is OPEN, and goes on from `a` otherwise. -/
theorem followAlternates_succ_of_alternate (halt : entries[s].alternate = some a) :
    followAlternates entries (hops + 1) s =
      if entries[a].closed = false then some a else followAlternates entries hops a := by
  simp only [followAlternates, halt]
  cases entries[a].closed <;> rfl

/-- Whatever the hop limit, the hops end only at an OPEN station. -/
theorem open_of_followAlternates (h : followAlternates entries hops s = some e) : entries[e].closed = false := by
  induction hops generalizing s with
  | zero => cases h
  | succ hops ih =>
    cases halt : entries[s].alternate with
    | none => cases (followAlternates_succ_of_no_alternate halt).symm.trans h
    | some a =>
      rw [followAlternates_succ_of_alternate halt] at h
      split at h
      next ha =>
        cases h
        exact ha
      next => exact ih h

/-! ## The effective station (R73) -/

theorem effectiveStation_of_open (hs : entries[s].closed = false) : effectiveStation entries s = some s := by
  rw [effectiveStation, hs]
  rfl

theorem effectiveStation_of_not_open (hs : ¬ entries[s].closed = false) :
    effectiveStation entries s = followAlternates entries 3 s :=
  if_pos (Bool.eq_true_of_not_eq_false hs)

/-- An effective station is an OPEN station or NONE. -/
theorem open_of_effectiveStation (h : effectiveStation entries s = some e) : entries[e].closed = false := by
  by_cases hs : entries[s].closed = false
  · rw [effectiveStation_of_open hs] at h
    cases h
    exact hs
  · exact open_of_followAlternates ((effectiveStation_of_not_open hs).symm.trans h)

/-- Settles O39, hop by hop: a closed station's effective station is where three hops lead, and each hop ends at an
OPEN station, ends in NONE without an alternate, or hands the station it reached to the hops that are left. -/
theorem effectiveStationByHops : Obligations.EffectiveStationByHops := by
  intro entries s isOpen
  refine ⟨effectiveStation_of_open, fun e => open_of_effectiveStation, fun hs => ?_⟩
  rw [effectiveStation_of_not_open hs]
  refine ⟨followAlternates_succ_of_no_alternate, fun a sa => ?_⟩
  rw [followAlternates_succ_of_alternate sa]
  refine ⟨fun ha => if_pos ha, fun ha => ?_⟩
  rw [if_neg ha]
  refine ⟨followAlternates_succ_of_no_alternate, fun b ab => ?_⟩
  rw [followAlternates_succ_of_alternate ab]
  refine ⟨fun hb => if_pos hb, fun hb => ?_⟩
  rw [if_neg hb]
  refine ⟨followAlternates_succ_of_no_alternate, fun c bc => ?_⟩
  rw [followAlternates_succ_of_alternate bc, followAlternates_zero]

end Sys2Proof.Machine

/-! SUPPORT. The cost of a segment and of a route, the candidates that an evaluation finds available, and which of
them it selects (R90 to R94, R102, R103). -/

namespace Sys2Proof.Machine

open Sys2Proof

/-! ## The cost of a segment (R91) -/

theorem segmentCost_of_opened {g : Segment} (h : g.soft = .opened) : segmentCost g = baseCost g := by
  simp only [segmentCost, h]

theorem segmentCost_of_restricted {g : Segment} (h : g.soft = .restricted) : segmentCost g = 4 * baseCost g := by
  simp only [segmentCost, h]

/-- Whatever the software state, a segment costs its base cost or four times that. -/
theorem segmentCost_eq_or (g : Segment) : segmentCost g = baseCost g ∨ segmentCost g = 4 * baseCost g := by
  unfold segmentCost
  cases g.soft with
  | opened => exact .inl rfl
  | restricted => exact .inr rfl
  | closed => exact .inl rfl

/-- The base cost is the length times the weight in sixteenths, rounded up. -/
theorem baseCost_ceil (g : Segment) :
    16 * baseCost g < g.length * kindWeight g.kind + 16 ∧ g.length * kindWeight g.kind ≤ 16 * baseCost g := by
  unfold baseCost
  omega

/-- The lightest kind is LIFT and the heaviest STAIR_UP. -/
theorem kindWeight_bounds (k : SegmentKind) : 8 ≤ kindWeight k ∧ kindWeight k ≤ 48 := by
  cases k <;> decide

theorem baseCost_bounds {g : Segment} (h1 : 1 ≤ g.length) (h2 : g.length ≤ 1000) :
    1 ≤ baseCost g ∧ baseCost g ≤ 3000 := by
  obtain ⟨lightest, heaviest⟩ := kindWeight_bounds g.kind
  have least : 1 * 8 ≤ g.length * kindWeight g.kind := Nat.mul_le_mul h1 lightest
  have most : g.length * kindWeight g.kind ≤ 1000 * 48 := Nat.mul_le_mul h2 heaviest
  have := baseCost_ceil g
  omega

/-- Settles O57, from the rounding of the base cost and the bounds on length and weight. -/
theorem segmentCosts : Obligations.SegmentCosts := by
  intro g weight
  refine ⟨fun opened => ?_, fun restricted => ?_, fun h1 h2 => ?_⟩
  · rw [segmentCost_of_opened opened]
    exact baseCost_ceil g
  · rw [segmentCost_of_restricted restricted, segmentCost_of_opened rfl]
    rfl
  · have := baseCost_bounds h1 h2
    have := segmentCost_eq_or g
    omega

/-! ## The cost of a route (R92) -/

/-- Saturating at every step of the sum is saturating at its end. -/
theorem foldl_saturating_eq (l : List Segment) {a : Nat} (ha : a ≤ 65535) :
    l.foldl (fun sum g => min (sum + segmentCost g) 65535) a = min (a + (l.map segmentCost).sum) 65535 := by
  induction l generalizing a with
  | nil => exact (Nat.min_eq_left ha).symm
  | cons g l ih =>
    rw [List.foldl_cons, ih (Nat.min_le_right _ _), List.map_cons, List.sum_cons]
    omega

theorem routeCost_eq (l : List Segment) : routeCost l = min (l.map segmentCost).sum 65535 := by
  rw [routeCost, foldl_saturating_eq l (Nat.zero_le _), Nat.zero_add]

/-! ## Valid candidates and available segments (R90, R94) -/

section
variable {r : RouteUnit} {st : MusterState} {d0 d1 : LineData} {k k' count : Nat} {c c' : Candidate}

/-- What makes candidate record `k` valid, and what it then says (R94). -/
theorem readCandidate_eq_some :
    readCandidate count d0 d1 k = some c ↔
      (candidateByte d0 d1 k 0).getLsbD 0 = true ∧ c.glyph = (candidateByte d0 d1 k 1).toNat ∧ c.glyph ≤ 9 ∧
      c.ids = (List.range (candidateByte d0 d1 k 2).toNat).map (fun j => (candidateByte d0 d1 k (4 + j)).toNat) ∧
      1 ≤ (candidateByte d0 d1 k 2).toNat ∧ (candidateByte d0 d1 k 2).toNat ≤ 14 ∧ ∀ i ∈ c.ids, i < count := by
  obtain ⟨glyph, ids⟩ := c
  simp only [readCandidate, Option.ite_none_left_eq_some, Option.some.injEq, Candidate.mk.injEq,
    Bool.not_eq_false, List.any_eq_true, decide_eq_true_eq, not_exists, not_and, not_or, Nat.not_lt, Nat.not_le,
    ← Nat.one_le_iff_ne_zero]
  constructor
  · rintro ⟨flag, ⟨low, high⟩, small, present, rfl, rfl⟩
    exact ⟨flag, rfl, small, rfl, low, high, present⟩
  · rintro ⟨flag, rfl, small, rfl, low, high, present⟩
    exact ⟨flag, ⟨low, high⟩, small, present, rfl, rfl⟩

theorem RouteUnit.zoneAsserted_eq_false {zone : Nat} :
    r.zoneAsserted zone = false ↔ zone = 0 ∨ (r.zones[zone - 1]?).getD false = false := by
  simp [RouteUnit.zoneAsserted, or_iff_not_imp_left]

theorem RouteUnit.available_iff {g : Segment} :
    r.available st g = true ↔
      g.soft ≠ .closed ∧ (g.zone = 0 ∨ (r.zones[g.zone - 1]?).getD false = false) ∧
      ¬ (g.kind = .lift ∧ (st = .drill ∨ st = .muster)) := by
  rw [← RouteUnit.zoneAsserted_eq_false]
  simp [RouteUnit.available, and_assoc, imp_iff_not_or]

theorem RouteUnit.all_listed {p : Segment → Bool} :
    (r.listed c).all p = true ↔ ∀ i ∈ c.ids, ∀ g, r.segments[i]? = some g → p g = true := by
  simp only [RouteUnit.listed, List.all_eq_true, List.mem_filterMap]
  exact ⟨fun h i hi g hg => h g ⟨i, hi, hg⟩, fun h g ⟨i, hi, hg⟩ => h i hi g hg⟩

/-! ## Available candidates (R102) -/

/-- Candidate record `k` is valid, reads as `c`, and lists available segments only. -/
def RouteUnit.Offers (r : RouteUnit) (st : MusterState) (d0 d1 : LineData) (k : Nat) (c : Candidate) : Prop :=
  k < 4 ∧ readCandidate r.segments.length d0 d1 k = some c ∧
    ∀ i ∈ c.ids, ∀ g, r.segments[i]? = some g → r.available st g = true

/-- What an evaluation notes of an available candidate. -/
def RouteUnit.noted (r : RouteUnit) (k : Nat) (c : Candidate) : Choice :=
  { index := k, cost := routeCost (r.listed c), glyph := c.glyph }

theorem RouteUnit.choice_eq_some {m : Choice} :
    r.choice st d0 d1 k = some m ↔
      ∃ c, readCandidate r.segments.length d0 d1 k = some c ∧
        (r.listed c).all (r.available st) = true ∧ r.noted k c = m := by
  unfold RouteUnit.choice
  cases readCandidate r.segments.length d0 d1 k with
  | none => exact ⟨nofun, nofun⟩
  | some c =>
    simp only [Option.some.injEq, Option.ite_none_right_eq_some, exists_eq_left', RouteUnit.noted]

theorem RouteUnit.mem_choices {m : Choice} :
    m ∈ r.choices st d0 d1 ↔ ∃ k c, r.Offers st d0 d1 k c ∧ r.noted k c = m := by
  simp only [RouteUnit.choices, List.mem_filterMap, List.mem_range, RouteUnit.choice_eq_some, RouteUnit.all_listed]
  constructor
  · rintro ⟨k, lt, c, valid, all, hm⟩
    exact ⟨k, c, ⟨lt, valid, all⟩, hm⟩
  · rintro ⟨k, c, ⟨lt, valid, all⟩, hm⟩
    exact ⟨k, lt, c, valid, all, hm⟩

theorem RouteUnit.Offers.noted_mem (h : r.Offers st d0 d1 k c) : r.noted k c ∈ r.choices st d0 d1 :=
  RouteUnit.mem_choices.2 ⟨k, c, h, rfl⟩

/-- A record reads as one candidate only. -/
theorem RouteUnit.Offers.unique (h : r.Offers st d0 d1 k c) (h' : r.Offers st d0 d1 k c') : c = c' := by
  obtain ⟨_, reads, _⟩ := h
  obtain ⟨_, reads', _⟩ := h'
  exact Option.some.inj (reads.symm.trans reads')

/-- The available candidates stand in index order. -/
theorem RouteUnit.choices_ordered (r : RouteUnit) (st : MusterState) (d0 d1 : LineData) :
    (r.choices st d0 d1).Pairwise fun a b => a.index < b.index := by
  have index_of {k : Nat} {m : Choice} (h : r.choice st d0 d1 k = some m) : m.index = k := by
    obtain ⟨c, _, _, rfl⟩ := RouteUnit.choice_eq_some.1 h
    rfl
  refine List.pairwise_filterMap.2 (List.pairwise_lt_range.imp fun lt a ha b hb => ?_)
  rw [index_of ha, index_of hb]
  exact lt

/-- The available candidate of index `k` is found by its index. -/
theorem RouteUnit.Offers.find (h : r.Offers st d0 d1 k c) :
    (r.choices st d0 d1).find? (fun x => decide (x.index = k)) = some (r.noted k c) := by
  have found : ((r.choices st d0 d1).find? fun x => decide (x.index = k)).isSome :=
    List.find?_isSome.2 ⟨_, h.noted_mem, decide_eq_true rfl⟩
  obtain ⟨x, hx⟩ := Option.isSome_iff_exists.1 found
  obtain ⟨k', c', h', rfl⟩ := RouteUnit.mem_choices.1 (List.mem_of_find?_eq_some hx)
  have same := List.find?_some hx
  obtain rfl : k' = k := of_decide_eq_true same
  rw [hx, h'.unique h]

/-- No candidate of an index without an available one is found. -/
theorem RouteUnit.find_choices_eq_none (h : ∀ c, ¬ r.Offers st d0 d1 k c) :
    (r.choices st d0 d1).find? (fun x => decide (x.index = k)) = none := by
  refine List.find?_eq_none.2 fun x hx hk => ?_
  obtain ⟨k', c', h', rfl⟩ := RouteUnit.mem_choices.1 hx
  obtain rfl : k' = k := of_decide_eq_true hk
  exact h c' h'

end

/-! ## The cheapest candidate (R102) -/

theorem mem_of_cheapest {l : List Choice} {m : Choice} (h : cheapest l = some m) : m ∈ l := by
  induction l generalizing m with
  | nil => cases h
  | cons c rest ih =>
    unfold cheapest at h
    split at h
    next x hx =>
      split at h
      next => exact List.mem_cons_of_mem _ (ih (hx.trans h))
      next =>
        cases h
        exact List.mem_cons_self
    next =>
      cases h
      exact List.mem_cons_self

/-- A candidate goes before another if it is cheaper, or as cheap and of no higher index. -/
def Choice.Before (m x : Choice) : Prop := m.cost < x.cost ∨ (m.cost = x.cost ∧ m.index ≤ x.index)

/-- Of candidates in index order, the one that goes before all the others is found. -/
theorem cheapest_eq_some {l : List Choice} {m : Choice} (ordered : l.Pairwise fun a b => a.index < b.index)
    (hm : m ∈ l) (first : ∀ x ∈ l, m.Before x) : cheapest l = some m := by
  induction l with
  | nil => cases hm
  | cons c rest ih =>
    obtain ⟨low, orderedRest⟩ := List.pairwise_cons.1 ordered
    obtain ⟨firstC, firstRest⟩ := List.forall_mem_cons.1 first
    rw [cheapest]
    rcases List.mem_cons.1 hm with rfl | hm
    · split
      next x hx =>
        have : ¬ x.cost < m.cost := by
          rcases firstRest x (mem_of_cheapest hx) with lt | ⟨eq, _⟩ <;> omega
        rw [if_neg this]
      next => rfl
    · have cheaper : m.cost < c.cost := by
        have := low m hm
        rcases firstC with lt | ⟨_, le⟩ <;> omega
      simp only [ih orderedRest hm firstRest, if_pos cheaper]

/-! ## Which candidate is selected (R102, R103) -/

section
variable {r : RouteUnit} {st : MusterState} {present : RouteResult} {target : Nat} {d0 d1 : LineData}
  {k k0 c0 g0 : Nat} {c c1 : Candidate}

theorem keptIndex_eq_some : keptIndex present target = some k ↔ ∃ c0 g0, present = .selected target k c0 g0 := by
  cases present with
  | selected t k' c' g' =>
    by_cases ht : t = target
    · simp [keptIndex, ht]
    · simp [keptIndex, ht]
  | none => simp [keptIndex]
  | noRoute _ => simp [keptIndex]
  | fault _ => simp [keptIndex]

theorem RouteUnit.evaluate_eq_noRoute (h : ∀ k c, ¬ r.Offers st d0 d1 k c) :
    r.evaluate st present target d0 d1 = .noRoute (some target) := by
  have empty : r.choices st d0 d1 = [] := List.eq_nil_iff_forall_not_mem.2 fun m hm => by
    obtain ⟨k, c, hk, _⟩ := RouteUnit.mem_choices.1 hm
    exact h k c hk
  rw [RouteUnit.evaluate, empty]
  rfl

/-- The available candidate that the present result keeps in play (R103). -/
def RouteUnit.keptChoice (r : RouteUnit) (st : MusterState) (present : RouteResult) (target : Nat)
    (d0 d1 : LineData) : Option Choice :=
  (keptIndex present target).bind fun k => (r.choices st d0 d1).find? fun x => decide (x.index = k)

theorem RouteUnit.keptChoice_eq_none
    (lost : ∀ k0 c0 g0 c1, present = .selected target k0 c0 g0 → ¬ r.Offers st d0 d1 k0 c1) :
    r.keptChoice st present target d0 d1 = none := by
  refine Option.bind_eq_none_iff.2 fun k0 hk0 => ?_
  obtain ⟨c0, g0, hp⟩ := keptIndex_eq_some.1 hk0
  exact RouteUnit.find_choices_eq_none fun c1 => lost k0 c0 g0 c1 hp

theorem RouteUnit.keptChoice_eq_some (hp : present = .selected target k0 c0 g0) (h0 : r.Offers st d0 d1 k0 c1) :
    r.keptChoice st present target d0 d1 = some (r.noted k0 c1) := by
  rw [RouteUnit.keptChoice, keptIndex_eq_some.2 ⟨c0, g0, hp⟩]
  exact h0.find

variable (h : r.Offers st d0 d1 k c)
  (first : ∀ k' c', r.Offers st d0 d1 k' c' → (r.noted k c).Before (r.noted k' c'))
include h first

/-- An evaluation selects what hysteresis leaves of the cheapest and the kept candidate. -/
theorem RouteUnit.evaluate_eq_selected :
    r.evaluate st present target d0 d1 =
      let won := hysteresis (r.keptChoice st present target d0 d1) (r.noted k c)
      .selected target won.index won.cost won.glyph := by
  have best : cheapest (r.choices st d0 d1) = some (r.noted k c) := by
    refine cheapest_eq_some (r.choices_ordered st d0 d1) h.noted_mem fun x hx => ?_
    obtain ⟨k', c', h', rfl⟩ := RouteUnit.mem_choices.1 hx
    exact first k' c' h'
  simp only [RouteUnit.evaluate, RouteUnit.keptChoice, best]

/-- Without a present candidate that is still available, the cheapest is selected. -/
theorem RouteUnit.evaluate_of_not_kept
    (lost : ∀ k0 c0 g0 c1, present = .selected target k0 c0 g0 → ¬ r.Offers st d0 d1 k0 c1) :
    r.evaluate st present target d0 d1 = .selected target k (routeCost (r.listed c)) c.glyph := by
  rw [RouteUnit.evaluate_eq_selected h first, RouteUnit.keptChoice_eq_none lost]
  rfl

/-- A present candidate that is still available stays unless the cheapest costs less than its cost less an eighth. -/
theorem RouteUnit.evaluate_of_kept
    (hp : present = .selected target k0 c0 g0) (h0 : r.Offers st d0 d1 k0 c1) :
    r.evaluate st present target d0 d1 =
      if routeCost (r.listed c) < routeCost (r.listed c1) - routeCost (r.listed c1) / 8 then
        .selected target k (routeCost (r.listed c)) c.glyph
      else .selected target k0 (routeCost (r.listed c1)) c1.glyph := by
  rw [RouteUnit.evaluate_eq_selected h first, RouteUnit.keptChoice_eq_some hp h0]
  simp only [hysteresis]
  by_cases cheaper : (r.noted k c).cost < (r.noted k0 c1).cost - (r.noted k0 c1).cost / 8
  · rw [if_pos cheaper]
    exact (if_pos cheaper).symm
  · rw [if_neg cheaper]
    exact (if_neg cheaper).symm

end

/-- Settles O56: the statement's available candidates are those on offer and its costs those noted, so that each
clause is one of the three outcomes of an evaluation. -/
theorem evaluationSelects : Obligations.EvaluationSelects := by
  intro r st present target d0 d1 byte valid usable avail cost chosen
  have valid_iff (k : Nat) (c : Candidate) : readCandidate r.segments.length d0 d1 k = some c ↔ valid k c :=
    readCandidate_eq_some
  have avail_iff (k : Nat) (c : Candidate) : r.Offers st d0 d1 k c ↔ avail k c := by
    simp only [RouteUnit.Offers, valid_iff, RouteUnit.available_iff]
    rfl
  have cost_eq (c : Candidate) : routeCost (r.listed c) = cost c := routeCost_eq _
  refine ⟨valid_iff, fun h => ?_, fun k c h best => ?_⟩
  · exact RouteUnit.evaluate_eq_noRoute fun k c hk => h k c ((avail_iff k c).1 hk)
  · have offer : r.Offers st d0 d1 k c := (avail_iff k c).2 h
    have first (k' : Nat) (c' : Candidate) (h' : r.Offers st d0 d1 k' c') :
        (r.noted k c).Before (r.noted k' c') := by
      simp only [Choice.Before, RouteUnit.noted, cost_eq]
      exact best k' c' ((avail_iff k' c').1 h')
    refine ⟨fun lost => ?_, fun k0 c0 g0 c1 hp h0 => ?_⟩
    · rw [RouteUnit.evaluate_of_not_kept offer first fun k0 c0 g0 c1 hp h0 =>
        lost k0 c0 g0 c1 hp ((avail_iff k0 c1).1 h0), cost_eq]
    · rw [RouteUnit.evaluate_of_kept offer first hp ((avail_iff k0 c1).2 h0), cost_eq, cost_eq]

end Sys2Proof.Machine

/-! SUPPORT. The order of the pending set and what it sees of a cabin, which operations of the Cabin unit move it, and
why each of them leaves it at the pending cabins, each once, in order (R142). -/

namespace Sys2Proof.Machine

open Sys2Proof

/-! ## The order (R142) -/

/-- What the pending set sees of a cabin: its eligible second and its pending class. -/
def Cabin.standing (c : Cabin) : Word × PendClass := (c.eligible, c.pend)

/-- Two entries of which the set sees the same are both absent, or agree in eligible second and class. -/
theorem Cabin.standing_cases {x y : Option Cabin} (h : x.map Cabin.standing = y.map Cabin.standing) :
    (x = none ∧ y = none) ∨ ∃ a b, x = some a ∧ y = some b ∧ a.eligible = b.eligible ∧ a.pend = b.pend := by
  cases y with
  | none => exact .inl ⟨Option.map_eq_none_iff.1 h, rfl⟩
  | some b =>
    obtain ⟨a, rfl, e⟩ := Option.map_eq_some_iff.1 h
    obtain ⟨eligible, pend⟩ := Prod.mk.inj e
    exact .inr ⟨a, b, rfl, rfl, eligible, pend⟩

/-- The order of two cabins is a matter of what the set sees of them. -/
theorem pendBefore_congr {old new : List Cabin} {i j : Nat}
    (hi : (new[i]?).map Cabin.standing = (old[i]?).map Cabin.standing)
    (hj : (new[j]?).map Cabin.standing = (old[j]?).map Cabin.standing) :
    pendBefore new i j = pendBefore old i j := by
  unfold pendBefore
  obtain ⟨newI, oldI⟩ | ⟨a, a', newI, oldI, eligibleI, pendI⟩ := Cabin.standing_cases hi
  · rw [newI, oldI]
  · obtain ⟨newJ, oldJ⟩ | ⟨b, b', newJ, oldJ, eligibleJ, pendJ⟩ := Cabin.standing_cases hj
    · rw [newI, oldI, newJ, oldJ]
    · simp only [newI, oldI, newJ, oldJ, eligibleI, pendI, eligibleJ, pendJ]

/-- The pending set holds exactly the pending cabins of the table, each once, in its order (R142). -/
structure CabinUnit.PendSound (u : CabinUnit) : Prop where
  nodup : u.pend.Nodup
  mem : ∀ i : Nat, i ∈ u.pend ↔ ∃ c, u.cabins[i]? = some c ∧ c.pend ≠ .none
  ordered : u.pend.Pairwise fun i j => pendBefore u.cabins i j = true

theorem State.pendingSound_iff (s : State) : s.PendingSound ↔ s.cabin.PendSound :=
  ⟨fun ⟨nodup, mem, ordered⟩ => ⟨nodup, mem, ordered⟩, fun h => ⟨h.nodup, h.mem, h.ordered⟩⟩

namespace CabinUnit.PendSound

variable {u v : CabinUnit} {i : Nat}

theorem lt_length (h : u.PendSound) (hi : i ∈ u.pend) : i < u.cabins.length := by
  obtain ⟨c, hc, -⟩ := (h.mem i).1 hi
  exact (List.getElem?_eq_some_iff.1 hc).1

/-- A table without a pending cabin and an empty set. -/
theorem of_empty (hp : u.pend = []) (hc : ∀ c ∈ u.cabins, c.pend = .none) : u.PendSound where
  nodup := by simp [hp]
  mem i := by
    simp only [hp, List.not_mem_nil, false_iff, not_exists, not_and, not_not]
    exact fun c h => hc c (List.mem_of_getElem? h)
  ordered := by simp [hp]

/-- Changes of the table that the set does not see. -/
theorem of_standing (h : u.PendSound) (hp : v.pend = u.pend)
    (hs : ∀ j : Nat, (v.cabins[j]?).map Cabin.standing = (u.cabins[j]?).map Cabin.standing) : v.PendSound where
  nodup := hp ▸ h.nodup
  mem i := by
    have class_iff (l : List Cabin) : (∃ c, l[i]? = some c ∧ c.pend ≠ .none) ↔
        ∃ q, (l[i]?).map Cabin.standing = some q ∧ q.2 ≠ .none := by
      simp [Option.map_eq_some_iff, Cabin.standing]
    rw [hp, h.mem, class_iff, class_iff, hs]
  ordered := by
    rw [hp]
    exact h.ordered.imp fun before => (pendBefore_congr (hs _) (hs _)).trans before

/-- Whatever entry a present cabin is given, the set takes it to its place or leaves it out (R142). -/
theorem place (h : u.PendSound) (hi : i < u.cabins.length) (c : Cabin) : (u.place i c).PendSound where
  nodup := CabinUnit.nodup_place h.nodup
  mem j := by
    rw [CabinUnit.mem_place, CabinUnit.place_cabins, List.getElem?_set, h.mem]
    by_cases e : j = i
    · subst e
      simp [hi]
    · simp [e, Ne.symm e]
  ordered := by
    have other {j : Nat} (hj : j ≠ i) : (u.cabins.set i c)[j]? = u.cabins[j]? := by simp [hj.symm]
    have others : (u.pend.filter fun j => decide (j ≠ i)).Pairwise
        fun a b => pendBefore (u.cabins.set i c) a b = true := by
      refine (h.ordered.filter _).imp_of_mem fun ha hb before => ?_
      simp only [List.mem_filter, decide_eq_true_eq] at ha hb
      exact (pendBefore_congr (congrArg _ (other ha.2)) (congrArg _ (other hb.2))).trans before
    unfold CabinUnit.place
    dsimp only
    split
    · exact others
    · refine insertPend_ordered others (by simp) (by simpa using hi) fun j hj => ?_
      rw [List.length_set]
      exact h.lt_length (List.mem_filter.1 hj).1

/-! ## Causes (R139 to R141) -/

theorem routineCause (h : u.PendSound) (interval i : Nat) : (u.routineCause interval i).PendSound := by
  unfold CabinUnit.routineCause
  split
  next c hc =>
    split
    · exact h.place (List.getElem?_eq_some_iff.1 hc).1 _
    · exact h
    · exact h
  next => exact h

theorem urgentCause (h : u.PendSound) (now : Word) (i : Nat) : (u.urgentCause now i).PendSound := by
  unfold CabinUnit.urgentCause
  split
  next c hc =>
    have present : i < u.cabins.length := (List.getElem?_eq_some_iff.1 hc).1
    split
    · exact h
    · exact h.place present _
    · exact h.place present _
  next => exact h

theorem urgentCauses (h : u.PendSound) (now : Word) (p : Cabin → Bool) : (u.urgentCauses now p).PendSound := by
  refine List.foldlRecOn _ _ h fun v hv i _ => ?_
  split
  · split
    · exact hv.urgentCause now i
    · exact hv
  · exact hv

end CabinUnit.PendSound

section
variable {s : State}

/-! ## Notices, home stations and written records (R133, R134, R143) -/

/-- The notified flags are no matter of the set. -/
theorem State.markNotified_pendSound (h : s.cabin.PendSound) : s.markNotified.cabin.PendSound := by
  refine h.of_standing rfl fun j => ?_
  simp only [State.markNotified, List.getElem?_map, Option.map_map]
  congr 1
  funext c
  simp only [Function.comp_apply]
  split <;> rfl

theorem State.notifyCabins_pendSound (h : s.cabin.PendSound) : s.notifyCabins.cabin.PendSound :=
  State.markNotified_pendSound (s := s.handAll s.dueNotices) (by simpa using h)

/-- A home station is no matter of the set, and an URGENT cause may follow it. -/
theorem State.takeHome_pendSound (h : s.cabin.PendSound) (i : Nat) (value : Byte) :
    (s.takeHome i value).cabin.PendSound := by
  unfold State.takeHome
  split
  next c hc =>
    split
    next hv =>
      have homed : CabinUnit.PendSound
          { s.cabin with cabins := s.cabin.cabins.set i { c with home := some ⟨value.toNat, hv⟩ } } := by
        refine h.of_standing rfl fun j => ?_
        by_cases e : i = j
        · subst e
          rw [List.getElem?_set_self (List.getElem?_eq_some_iff.1 hc).1, hc]
          rfl
        · rw [List.getElem?_set_ne e]
      dsimp only
      split
      · exact homed.urgentCause _ i
      · exact homed
    next => exact h.of_standing rfl fun _ => rfl
  next => exact h

/-- A recorded write is no matter of the set, and a ROUTINE cause follows it. -/
theorem State.cabinWritten_pendSound (h : s.cabin.PendSound) (i o : Nat) (w : WriteLine) (seq : Nat) :
    (s.cabinWritten i o w seq).cabin.PendSound := by
  have recorded {u : CabinUnit} (hu : u.PendSound) : CabinUnit.PendSound
      { u with cabins := u.cabins.modify i fun c => { c with lastWrite := some seq } } := by
    refine hu.of_standing rfl fun j => ?_
    simp only [List.getElem?_modify, Option.map_eq_map, Option.map_map]
    congr 1
    funext c
    simp only [Function.comp_apply]
    split <;> rfl
  unfold State.cabinWritten
  dsimp only
  split
  · exact (recorded (State.takeHome_pendSound h _ _)).routineCause _ _
  · exact (recorded h).routineCause _ _

theorem State.cabinRecord_pendSound (h : s.cabin.PendSound) (i o : Nat) (w : WriteLine) (seq : Nat) :
    (s.cabinRecord i o w seq).cabin.PendSound := by
  unfold State.cabinRecord
  split
  · exact State.cabinWritten_pendSound h ..
  · exact h

theorem State.deliverCabin_pendSound (h : s.cabin.PendSound) (k : Nat) (w : WriteLine) (seq : Nat) :
    (s.deliverCabin k w seq).cabin.PendSound :=
  State.notifyCabins_pendSound (State.cabinRecord_pendSound (State.cabinRecord_pendSound h ..) ..)

/-! ## Observed refreshes (R135, R138) -/

/-- A complete refresh takes the cabin out of the set, and an incomplete one gives it a new place. -/
theorem State.observeRefresh_pendSound (h : s.cabin.PendSound) (i seq : Nat) :
    (s.observeRefresh i seq).cabin.PendSound := by
  unfold State.observeRefresh
  split
  next c hc =>
    have placed (d : Cabin) : (s.cabin.place i d).PendSound := h.place (List.getElem?_eq_some_iff.1 hc).1 d
    unfold State.refreshCabin
    dsimp only
    split
    · exact placed _
    · exact State.notifyCabins_pendSound (placed _)
  next => exact h

theorem State.observeLine_pendSound (h : s.cabin.PendSound) (k seq : Nat) : (s.observeLine k seq).cabin.PendSound :=
  State.observeRefresh_pendSound (State.observeRefresh_pendSound h ..) ..

theorem State.lineData_pendSound (h : s.cabin.PendSound) (i : Fin 8) (l : Nat) (d : LineData) :
    (s.lineData i l d).cabin.PendSound := by
  unfold State.lineData
  split
  · split
    · split
      · split
        · exact State.observeLine_pendSound (by simpa using h) ..
        · simpa using h
      · exact h
    · exact h
  · exact h

/-! ## Station commands (R75 to R78) -/

theorem State.stationCauses_pendSound (h : s.cabin.PendSound) (changed : List StationIx) :
    (s.stationCauses changed).cabin.PendSound := by
  unfold State.stationCauses
  split
  · exact h
  · exact State.notifyCabins_pendSound (h.urgentCauses _ _)

theorem State.stationDone_pendSound (h : s.cabin.PendSound) (before : StationTable) (entries : Vector Station 12) :
    (s.stationDone before entries).cabin.PendSound := by
  simp only [State.stationDone, State.endCommand_frame, State.appendArrows_frame]
  exact State.stationCauses_pendSound (by simpa using h) _

theorem State.withStation_pendSound (h : s.cabin.PendSound) (station : Nat) {f : StationTable → StationIx → State}
    (hf : ∀ t i, (f t i).cabin.PendSound) : (s.withStation station f).cabin.PendSound := by
  unfold State.withStation
  split
  · simpa using h
  · split
    · exact hf _ _
    · simpa using h

theorem State.cmdSetAlternate_pendSound (h : s.cabin.PendSound) (station alternate : Nat) :
    (s.cmdSetAlternate station alternate).cabin.PendSound := by
  refine State.withStation_pendSound h station fun t i => ?_
  split
  · exact State.stationDone_pendSound h ..
  · split
    · exact State.stationDone_pendSound h ..
    · simpa using h

/-! ## Changes of muster state (R61 to R69) -/

/-- A change of muster state gives every cabin an URGENT cause and notifies (R69, R140). -/
theorem State.changeMuster_pendSound (h : s.cabin.PendSound) (m : MusterUnit) (o : Origin) :
    (s.changeMuster m o).cabin.PendSound := by
  simp only [changeMuster_eq, State.handAll_frame]
  exact State.markNotified_pendSound (s := { s with cabin := s.cabin.urgentCauses s.time.uptime fun _ => true })
    (h.urgentCauses _ _)

theorem State.orderMuster_pendSound (h : s.cabin.PendSound) (cause : MusterCause) :
    (s.orderMuster cause).cabin.PendSound := by
  unfold State.orderMuster
  split
  case h_4 | h_5 => exact h
  all_goals exact State.changeMuster_pendSound h ..

theorem State.standdownExpiry_pendSound (h : s.cabin.PendSound) : s.standdownExpiry.cabin.PendSound := by
  unfold State.standdownExpiry
  split
  · split
    · exact State.changeMuster_pendSound h ..
    · exact h
  · exact h

theorem State.decideMuster_pendSound (h : s.cabin.PendSound) : s.decideMuster.cabin.PendSound := by
  unfold State.decideMuster
  split
  · exact State.changeMuster_pendSound h ..
  · exact h

theorem State.takeLongBlast_pendSound (h : s.cabin.PendSound) : s.takeLongBlast.cabin.PendSound := by
  unfold State.takeLongBlast
  split
  · dsimp only
    split
    · exact State.orderMuster_pendSound (by simpa using h) _
    · exact h
  · exact h

theorem State.bellChange_pendSound (h : s.cabin.PendSound) (level : Bool) : (s.bellChange level).cabin.PendSound := by
  unfold State.bellChange
  split
  · exact h
  · exact State.takeLongBlast_pendSound h

/-! ## The input lines (R50, R51) -/

theorem State.deglitch_pendSound (h : s.cabin.PendSound) (line : InputLine) : (s.deglitch line).cabin.PendSound := by
  unfold State.deglitch
  dsimp only
  split
  · split
    · exact State.bellChange_pendSound (by exact h) _
    · exact h
  · exact h

/-- Of the debounced lines only MUSTER reaches the cabins (R61). -/
theorem State.levelChange_pendSound (h : s.cabin.PendSound) (line : InputLine) (level : Bool) :
    (s.levelChange line level).cabin.PendSound := by
  unfold State.levelChange
  split
  · exact h
  · split
    · exact State.orderMuster_pendSound h _
    · exact h
  · split
    · exact h
    · simpa using h
  · split
    · simpa using h
    · exact h

theorem State.debounce_pendSound (h : s.cabin.PendSound) (line : InputLine) : (s.debounce line).cabin.PendSound := by
  unfold State.debounce
  dsimp only
  split
  · split
    · exact State.levelChange_pendSound (by exact h) ..
    · exact h
  · exact h

/-! ## The command slot (R147, R150) -/

/-- The result of a muster command leaves the cabins alone. -/
theorem State.endMuster_pendSound (h : s.cabin.PendSound) (o : CmdOutcome) : (s.endMuster o).cabin.PendSound := by
  simpa using h

/-- A change of muster state that ends a command keeps the set. -/
theorem State.changeMuster_endMuster_pendSound (h : s.cabin.PendSound) (m : MusterUnit) (g : Origin)
    (o : CmdOutcome) : ((s.changeMuster m g).endMuster o).cabin.PendSound :=
  State.endMuster_pendSound (State.changeMuster_pendSound h ..) _

theorem State.cmdDrillStart_pendSound (h : s.cabin.PendSound) : s.cmdDrillStart.cabin.PendSound := by
  unfold State.cmdDrillStart
  split
  · exact State.changeMuster_endMuster_pendSound h ..
  · exact State.endMuster_pendSound h _

theorem State.cmdDrillEnd_pendSound (h : s.cabin.PendSound) : s.cmdDrillEnd.cabin.PendSound := by
  unfold State.cmdDrillEnd
  split
  · exact State.changeMuster_endMuster_pendSound h ..
  · exact State.endMuster_pendSound h _

theorem State.cmdAllClear_pendSound (h : s.cabin.PendSound) : s.cmdAllClear.cabin.PendSound := by
  unfold State.cmdAllClear
  split
  · exact State.endMuster_pendSound h _
  · split
    · exact State.endMuster_pendSound h _
    · exact State.changeMuster_endMuster_pendSound h ..

theorem State.cmdStanddownEnd_pendSound (h : s.cabin.PendSound) : s.cmdStanddownEnd.cabin.PendSound := by
  unfold State.cmdStanddownEnd
  split
  · exact State.changeMuster_endMuster_pendSound h ..
  · exact State.endMuster_pendSound h _

/-- The muster commands and the station commands can reach the cabins, and no other command does. -/
theorem State.startCommand_pendSound (h : s.cabin.PendSound) (code : Nat) :
    (s.startCommand code).cabin.PendSound := by
  unfold State.startCommand
  split
  case h_1 => exact State.cmdDrillStart_pendSound h
  case h_2 => exact State.cmdDrillEnd_pendSound h
  case h_3 => exact State.endMuster_pendSound (State.orderMuster_pendSound h _) _
  case h_4 => exact State.cmdAllClear_pendSound h
  case h_5 => exact State.cmdStanddownEnd_pendSound h
  case h_6 | h_7 => exact State.withStation_pendSound h _ fun _ _ => State.stationDone_pendSound h ..
  case h_8 => exact State.cmdSetAlternate_pendSound h ..
  case h_18 => simpa [State.cmdUnknown] using h
  all_goals simpa using h

theorem State.actOnWord_pendSound (h : s.cabin.PendSound) : s.actOnWord.cabin.PendSound := by
  unfold State.actOnWord
  dsimp only
  split
  · exact h
  · split
    · exact h
    · exact State.startCommand_pendSound (by exact h) _

theorem State.deliverSlot_pendSound (h : s.cabin.PendSound) (w : WriteLine) : (s.deliverSlot w).cabin.PendSound := by
  unfold State.deliverSlot
  dsimp only
  split
  · exact State.actOnWord_pendSound (by exact h)
  · exact h

/-! ## Writes at the PSP (R2, R20 to R22) -/

theorem State.deliverControl_pendSound (h : s.cabin.PendSound) (k : Nat) (w : WriteLine) :
    (s.deliverControl k w).cabin.PendSound := by
  unfold State.deliverControl
  split
  · exact State.deliverSlot_pendSound h w
  · simpa using h
  · exact h

/-- Of the lines that are delivered only those of the cabin table and of the command slot can reach the cabins. -/
theorem State.deliverLine_pendSound (h : s.cabin.PendSound) (seq : Nat) (a : Addr) (w : WriteLine) :
    (s.deliverLine seq a w).cabin.PendSound := by
  unfold State.deliverLine
  split
  case h_1 => exact State.deliverControl_pendSound h ..
  case h_4 => exact State.deliverCabin_pendSound (by simpa using h) ..
  all_goals simpa using h

theorem State.acceptWrite_pendSound (h : s.cabin.PendSound) (l : List (Addr × WriteLine)) :
    (s.acceptWrite l).cabin.PendSound :=
  List.foldlRecOn (motive := fun t : State => t.cabin.PendSound) l _ (by simpa using h)
    fun _ ht _ _ => State.deliverLine_pendSound ht ..

theorem State.writeArrives_pendSound (h : s.cabin.PendSound) (first : Addr) (lines : List WriteLine) :
    (s.writeArrives first lines).cabin.PendSound := by
  unfold State.writeArrives
  dsimp only
  split
  · simpa using h
  · split
    · simpa using h
    · split
      · simpa using h
      · exact State.acceptWrite_pendSound h _

theorem State.windowWrite_pendSound (h : s.cabin.PendSound) (w : Option Window) (k : Nat) (line : WriteLine) :
    (s.windowWrite w k line).cabin.PendSound := by
  unfold State.windowWrite
  split
  · simpa using h
  · split
    · split
      · exact State.writeArrives_pendSound h ..
      · exact h
    · exact h

/-! ## Rescans and own reads (R10, R129, R130) -/

theorem State.takeUnits_pendSound (h : s.cabin.PendSound) (table : ScanTable) (l : List ScanUnit) :
    (s.takeUnits table l).cabin.PendSound := by
  cases table with
  | programme | segments => simpa [State.takeUnits] using h
  | cabins =>
    exact State.notifyCabins_pendSound <| List.foldlRecOn (motive := fun t : State => t.cabin.PendSound) l _ h
      fun _ ht _ _ => State.takeHome_pendSound ht ..

theorem State.scanHandOver_pendSound (h : s.cabin.PendSound) (lines : List (Option LineData)) :
    (s.scanHandOver lines).cabin.PendSound := by
  unfold State.scanHandOver
  split
  next r _ =>
    have taken (l : List ScanUnit) : (s.takeUnits r.table l).cabin.PendSound := State.takeUnits_pendSound h ..
    dsimp only
    split
    · simpa using taken _
    · split
      · split
        · simpa using taken _
        · simpa using taken _
      · simpa using taken _
  next => exact h

theorem State.setOwn_pendSound (h : s.cabin.PendSound) (k : Fin 2) (lines : List OwnLine) :
    (s.setOwn k lines).cabin.PendSound := by
  unfold State.setOwn
  split
  · exact h
  · unfold State.handOver
    split
    · simpa using h
    · exact State.scanHandOver_pendSound (by exact h) _

theorem State.ownLineAnswer_pendSound (h : s.cabin.PendSound) (k : Fin 2) (l : Nat) (d : Option LineData) :
    (s.ownLineAnswer k l d).cabin.PendSound := by
  unfold State.ownLineAnswer
  split
  · split
    · split
      · split
        · exact State.setOwn_pendSound h ..
        · exact State.setOwn_pendSound (by simpa using h) ..
      · exact h
    · exact h
  · exact h

/-- A timeout reaches the cabins through the hand-over of a rescan's read alone (R12). -/
theorem State.timeout_pendSound (h : s.cabin.PendSound) (r : MspRef) : (s.timeout r).cabin.PendSound := by
  unfold State.timeout
  split
  case h_4 =>
    split
    · exact State.ownLineAnswer_pendSound h ..
    · exact h
  all_goals
    split
    · simpa using h
    · exact h

/-! ## Time, reset and start-up (R164 to R166) -/

/-- Time that passes moves neither the table nor the set. -/
theorem State.tick_pendSound (h : s.cabin.PendSound) : s.tick.cabin.PendSound :=
  h.of_standing (by simp) (by simp)

theorem State.uptimeTick_pendSound (h : s.cabin.PendSound) : s.uptimeTick.cabin.PendSound := by
  unfold State.uptimeTick
  split
  · exact State.notifyCabins_pendSound h
  · exact h

/-- A reset discards the table and the set (R146). -/
theorem State.doReset_pendSound (s : State) : s.doReset.cabin.PendSound :=
  .of_empty rfl fun _ h => absurd h List.not_mem_nil

theorem State.release_pendSound (h : s.cabin.PendSound) (strap1 strap0 : StrapLevel) :
    (s.release strap1 strap0).cabin.PendSound := by
  unfold State.release
  split
  · exact h
  · exact h

theorem State.romLoaded_pendSound (h : s.cabin.PendSound) (rom : List Byte) : (s.romLoaded rom).cabin.PendSound := by
  unfold State.romLoaded
  split
  · exact h
  · exact h

/-- Start-up ends with no cabin pending (R164). -/
theorem State.startReady_pendSound (s : State) (c : Contents) : (s.startReady c).cabin.PendSound :=
  .of_empty rfl fun d hd => by
    obtain rfl := List.eq_of_mem_replicate (show d ∈ List.replicate c.cabinCount ({} : Cabin) from hd)
    rfl

theorem State.startDegraded_pendSound (s : State) : s.startDegraded.cabin.PendSound :=
  .of_empty rfl fun _ h => absurd h List.not_mem_nil

theorem State.startUpEnds_pendSound (h : s.cabin.PendSound) : s.startUpEnds.cabin.PendSound := by
  unfold State.startUpEnds
  split
  · split
    · exact State.decideMuster_pendSound (s.startReady_pendSound _)
    · exact State.decideMuster_pendSound s.startDegraded_pendSound
  · exact h

/-! ## Every step -/

/-- The status block's bookkeeping leaves the cabins alone (R157). -/
theorem settleWith_pendSound {u : State} (h : u.cabin.PendSound) (mark : Bool) (s : State) :
    (settleWith mark s u).cabin.PendSound := by
  obtain ⟨e, -⟩ := settleWith_follows mark s u
  rw [e]
  exact h

/-- The next state of a command with its bookkeeping. -/
theorem CabinUnit.PendSound.of_commit {u t : State} (h : u.cabin.PendSound) (e : commit s u = .next t) :
    t.cabin.PendSound := by
  cases e
  exact settleWith_pendSound h true s

theorem exec_pendSound {c : Instr} {t : State} (hs : s.cabin.PendSound) (h : exec c s = .next t) :
    t.cabin.PendSound := by
  cases c with
  | pspWrite | headIndexWrite => exact .of_commit (State.writeArrives_pendSound hs _ _) h
  | programmeLineWrite | segmentStatusWrite | cabinRecordWrite =>
    exact .of_commit (State.windowWrite_pendSound hs _ _ _) h
  | drillStart | drillEnd | musterOrder | allClear | standdownEnd | stationClose | stationOpen | setAlternate
  | publishPage | openWindow | closeWindow | setClock | scheduleShift | cancelShift | setDefaultTarget | rescan
  | setRing | unknownCommand => exact .of_commit (State.writeArrives_pendSound hs _ _) h
  | readLineData i l d => exact .of_commit (State.lineData_pendSound hs i l.val d) h
  | ownReadLineAnswer => exact .of_commit (State.ownLineAnswer_pendSound hs _ _ _) h
  | deglitchExpiry line => exact .of_commit (State.deglitch_pendSound hs line) h
  | debounceExpiry line => exact .of_commit (State.debounce_pendSound hs line) h
  | longBlast => exact .of_commit (State.takeLongBlast_pendSound hs) h
  | standdownTimerExpiry => exact .of_commit (State.standdownExpiry_pendSound hs) h
  | uptimeSecond => exact .of_commit (State.uptimeTick_pendSound hs) h
  | resetRelease => exact .of_commit (State.release_pendSound hs _ _) h
  | romLoadEnd rom => exact .of_commit (State.romLoaded_pendSound hs rom) h
  | startUpEnd => exact .of_commit (State.startUpEnds_pendSound hs) h
  | iwqWriteAnswer a =>
    cases h
    exact settleWith_pendSound (by simpa using hs) false s
  | memoryTimeout r =>
    cases h
    exact settleWith_pendSound (State.timeout_pendSound hs r) _ s
  | lateAnswer =>
    cases h
    exact hs
  | reset =>
    cases h
    exact s.doReset_pendSound
  | pspRead | readLineError | arbiterGrant | pwqWriteAnswer | readAnswer | noticeWriterTurn | resultWordPlacement
  | rawLineChange | maintTimerExpiry | gapTimerExpiry | darkTimerExpiry | clockAdvance | routeComputationStart =>
    exact .of_commit (by simpa using hs) h

theorem step_pendSound {t : State} (hs : s.cabin.PendSound) (h : step s = .next t) : t.cabin.PendSound := by
  unfold step at h
  split at h
  · cases h
    exact State.tick_pendSound hs
  · exact exec_pendSound (by exact hs) h

end

/-- Settles O9: a cabin's class and eligible second change only where its entry is placed afresh, and that keeps the
set's members and order; reset and start-up leave no cabin pending. -/
theorem pendingSoundKept : Obligations.PendingSoundKept := fun s t hs h =>
  t.pendingSound_iff.2 (step_pendSound (s.pendingSound_iff.1 hs) h)

end Sys2Proof.Machine

/-! SUPPORT. What a command can do to the fields that the invariants of the part speak of, said once: every command but
RESET is a chain of moves, each of which changes one of these fields in one of few ways, under the guard that the
command has tested (R3, R11, R61, R74, R97, R119, R153 to R156). -/

namespace Sys2Proof.Machine

open Sys2Proof

-- One proof after another: many at once run out of threads.
set_option Elab.async false

/-! ## Moves -/

/-- From `s` to `t` nothing has changed that an invariant of queues, ring, work list, stations, programme list,
maintenance window or muster state speaks of. -/
structure Quiet (s t : State) : Prop where
  queue : t.notice.queue = s.notice.queue := by simp
  ring : t.notice.ring = s.notice.ring := by simp
  head : t.notice.head = s.notice.head := by simp
  tail : t.notice.tail = s.notice.tail := by simp
  urgent : t.notice.urgent = s.notice.urgent := by simp
  irq : t.notice.irq = s.notice.irq := by simp
  pwq : t.path.pwq = s.path.pwq := by simp
  iwq : t.path.iwq.length = s.path.iwq.length := by simp
  work : t.route.work = s.route.work := by simp
  screens : t.screen.screens.length = s.screen.screens.length := by simp
  checked : t.loader.checked = s.loader.checked := by simp
  phase : t.loader.phase = s.loader.phase := by simp
  table : t.station.table = s.station.table := by simp
  shadow : t.prog.shadow = s.prog.shadow := by simp
  order : t.prog.order = s.prog.order := by simp
  state : t.muster.state = s.muster.state := by simp
  maint : t.cmd.maint.isSome = s.cmd.maint.isSome := by simp
  musterDeb : t.lines.muster.deb = s.lines.muster.deb := by simp
  maintDeb : t.lines.maint.deb = s.lines.maint.deb := by simp

/-- The changes of muster state, with the debounced MUSTER level. ALL CLEAR, the one that leaves MUSTER, may be ruled
out by `write` (R61, R63 to R67). -/
inductive MusterEdge (write : Prop) (deb : Bool) : MusterState → MusterState → Prop where
  | order {a : MusterState} : a = .normal ∨ a = .drill ∨ a = .standdown → MusterEdge write deb a .muster
  | drill : MusterEdge write deb .normal .drill
  | drillEnd : MusterEdge write deb .drill .normal
  | allClear : write → deb = false → MusterEdge write deb .muster .standdown
  | standdownEnd : MusterEdge write deb .standdown .normal

/-- The Notice writer when its oldest notice `n` has been taken to the ring (R154). -/
def NoticeUnit.taken (u : NoticeUnit) (n : Notice) (rest : List Notice) : NoticeUnit :=
  NoticeUnit.evalIrq { u with
    queue := rest
    tail := u.nextTail
    urgent := if n.urgent then some u.tail else u.urgent
    lastTurn := .notices }

/-- The Notice writer when the ring has been moved (R152). -/
def NoticeUnit.moved (u : NoticeUnit) (r : RingConf) : NoticeUnit :=
  NoticeUnit.evalIrq { u with ring := r, head := 0, tail := 0, urgent := none, tailDue := true }

/-- The state when entry `i` of the shadow has taken new bytes and has been evaluated (R116, R129). -/
def State.entryTaken (s : State) (i : Nat) (f : ShadowEntry → Vector Byte 32) : State :=
  State.evalEntry
    { s with prog := { s.prog with shadow := s.prog.shadow.modify i fun e => { e with bytes := f e } } } i

/-- One change of one of the fields that the invariants speak of, under its guard. Only where `write` holds, where a
WRITE is being taken, can lines join the PWQ, and can it be the ALL CLEAR. -/
inductive Move (write : Prop) : State → State → Prop where
  | quiet {s t : State} : Quiet s t → Move write s t
  | handed (s : State) (ns : List Notice) : Move write s (s.handAll ns)
  | taken (s : State) (n : Notice) (rest : List Notice) : s.notice.queue = n :: rest →
      s.notice.unread < s.notice.ring.count - 1 → Move write s { s with notice := s.notice.taken n rest }
  | headTested (s : State) : Move write s { s with notice := s.notice.testHead }
  | ringMoved (s : State) (r : RingConf) : r.Sound → Move write s { s with notice := s.notice.moved r }
  | placed (s : State) (e : IwqEntry) : 0 < s.path.iwqFree → Move write s (s.placeIwq e)
  | accepted (s : State) (l : List (Addr × WriteLine)) : write → l.length ≤ s.path.pwqFree →
      Move write s (s.enqueueWrite l)
  | left (s : State) (p : Path) : p.pwq.Sublist s.path.pwq → p.iwq.length ≤ s.path.iwq.length →
      Move write s { s with path := p }
  | appended (s : State) (l : List Nat) : (∀ i ∈ l, i < s.screen.screens.length) → Move write s (s.appendScreens l)
  | workTaken (s : State) (i : Nat) (rest : List Nat) : s.route.work = i :: rest →
      Move write s { s with route := { s.route with work := rest } }
  | stationsSet (s : State) (entries : Vector Station 12) :
      Move write s { s with station := { s.station with table := some (StationTable.of entries) } }
  | entryTaken (s : State) (i : Nat) (f : ShadowEntry → Vector Byte 32) : Move write s (s.entryTaken i f)
  | musterChanged (s : State) (m : MusterUnit) (o : Origin) :
      MusterEdge write s.lines.muster.deb s.muster.state m.state → Move write s (s.changeMuster m o)
  | windowOpened (s : State) (n : Nat) : s.isReady = true → s.muster.state = .normal → s.lines.maint.deb = true →
      Move write s { s with cmd := { s.cmd with maint := some n } }
  | windowShut (s : State) : Move write s { s with cmd := { s.cmd with maint := none } }
  | levelTaken (s : State) (ls : Lines) :
      (s.started = true → ls.muster.deb = true → s.lines.muster.deb = true ∨ s.muster.state = .muster ∨
        s.muster.state = .undecided) →
      (s.started = true → ls.maint.deb = false → s.lines.maint.deb = false ∨ s.cmd.maint = none) →
      Move write s { s with lines := ls }
  | loaded (s : State) (l : Loader) : s.started = false → l.phase = .load ∨ l.phase = .check →
      (∀ c, l.checked = some c → s.loader.checked = some c ∨ (c.screens.length ≤ 24 ∧ c.ring.Sound)) →
      Move write s { s with loader := l }
  | startUp (s : State) : s.loader.phase = .check → Move write s s.startUpEnds

/-- A chain of moves. -/
abbrev Moves (write : Prop) : State → State → Prop := Relation.ReflTransGen (Move write)

/-- What every move keeps, a chain of moves keeps. -/
theorem Moves.keep {write : Prop} {p : State → Prop} (hp : ∀ {s t}, Move write s t → p s → p t) {s t : State}
    (h : Moves write s t) (hs : p s) : p t := by
  induction h with
  | refl => exact hs
  | tail _ m ih => exact hp m ih

theorem Move.chain {write : Prop} {s t : State} (h : Move write s t) : Moves write s t := .single h

theorem Quiet.moves {write : Prop} {s t : State} (h : Quiet s t) : Moves write s t := .single (.quiet h)

/-- A chain of moves that a quiet change follows. -/
theorem Moves.quiet {write : Prop} {s t u : State} (h : Moves write s t) (g : Quiet t u) : Moves write s u :=
  h.tail (.quiet g)

section
variable {write : Prop}

theorem Moves.then {write : Prop} {s t u : State} (h : Moves write s t) (g : Moves write t u) : Moves write s u :=
  Relation.ReflTransGen.trans h g

/-- A chain of moves after a quiet change. -/
theorem Moves.after {write : Prop} {s t u : State} (h : Moves write t u) (g : Quiet s t) : Moves write s u :=
  h.head (.quiet g)

/-! ## Notices, appends and results (R97, R148, R153) -/

theorem State.handAll_moves (s : State) (ns : List Notice) : Moves write s (s.handAll ns) := (Move.handed s ns).chain

theorem State.hand_moves (s : State) (n : Notice) : Moves write s (s.hand n) := s.handAll_moves [n]

theorem State.appendArrows_moves (s : State) : Moves write s s.appendArrows :=
  (Move.appended s _ fun _ => mem_arrowScreens).chain

/-- A result is placed where the IWQ has room, and held otherwise (R149). -/
theorem State.endCommand_moves (s : State) (r : CmdResult) : Moves write s (s.endCommand r) := by
  unfold State.endCommand
  split
  case isTrue room =>
    exact (Move.placed s (s.resultEntry r) room).chain.quiet { pwq := rfl, iwq := rfl, state := rfl, maint := rfl }
  case isFalse => exact Quiet.moves {}

theorem State.endMuster_moves (s : State) (o : CmdOutcome) : Moves write s (s.endMuster o) := s.endCommand_moves _

theorem State.placeHeld_moves (s : State) : Moves write s s.placeHeld := by
  unfold State.placeHeld
  split
  · split
    case h_1.isTrue r _ room =>
      have := s.endCommand_moves (write := write) r
      rwa [State.endCommand, if_pos room] at this
    · exact .refl
  · exact .refl

theorem State.notifyCabins_moves (s : State) : Moves write s s.notifyCabins :=
  (s.handAll_moves s.dueNotices).quiet (u := (s.handAll s.dueNotices).markNotified) {}

theorem State.mem_withArrow {s : State} {l : List Nat} {i : Nat} (h : i ∈ s.withArrow l) :
    i < s.screen.screens.length := by
  obtain ⟨-, h⟩ := List.mem_filter.1 h
  by_contra hi
  simp [List.getElem?_eq_none (not_lt.1 hi)] at h

theorem State.computeSelections_moves (s : State) : Moves write s s.computeSelections :=
  (Move.appended { s with prog := { s.prog with sel := s.screen.screens.map s.prog.select } } _ fun _ =>
    State.mem_withArrow).chain.after {}

theorem State.computeFeatured_moves (s : State) (i : Nat) : Moves write s (s.computeFeatured i) := by
  unfold State.computeFeatured
  split
  next sc _ =>
    exact (Move.appended { s with prog := { s.prog with
      sel := s.prog.sel.modify i fun r => r.map fun v => { v with featured := s.prog.featuredField sc } } } _
      fun _ => State.mem_withArrow).chain.after {}
  · exact .refl

/-! ## Changes of muster state and the maintenance window (R25 to R28, R61 to R67) -/

theorem State.closeWindowWith_moves (s : State) (cause : ClosureCause) : Moves write s (s.closeWindowWith cause) :=
  (((Move.windowShut s).chain.then (State.appendArrows_moves _)).then (State.hand_moves _ _))

theorem State.cmdOpenWindow_moves (s : State) : Moves write s s.cmdOpenWindow := by
  unfold State.cmdOpenWindow
  split
  · exact s.endCommand_moves _
  next ready =>
    split
    · exact s.endCommand_moves _
    next asserted =>
      split
      · exact s.endCommand_moves _
      next normal =>
        split
        · exact s.endCommand_moves _
        · exact (Move.windowOpened s 0 (by simpa using ready) (by simpa using normal) (by simpa using asserted)).chain.trans
            (State.endCommand_moves _ _)

theorem State.cmdCloseWindow_moves (s : State) : Moves write s s.cmdCloseWindow := by
  unfold State.cmdCloseWindow
  split
  · exact s.endCommand_moves _
  · split
    · exact s.endCommand_moves _
    · exact (s.closeWindowWith_moves _).then (State.endCommand_moves _ _)

theorem State.maintExpiry_moves (s : State) : Moves write s s.maintExpiry := by
  unfold State.maintExpiry
  split
  · split
    · exact s.closeWindowWith_moves _
    · exact .refl
  · exact .refl

/-- An order to muster leads to MUSTER, or is a repeat (R61). -/
theorem State.orderMuster_moves (s : State) (cause : MusterCause) : Moves write s (s.orderMuster cause) := by
  unfold State.orderMuster
  split
  case h_1 h => exact (Move.musterChanged s _ _ (h ▸ .order (by simp))).chain
  case h_2 h => exact (Move.musterChanged s _ _ (h ▸ .order (by simp))).chain
  case h_3 h => exact (Move.musterChanged s _ _ (h ▸ .order (by simp))).chain
  case h_4 => exact Quiet.moves {}
  case h_5 => exact .refl

theorem State.cmdMusterOrder_moves (s : State) : Moves write s s.cmdMusterOrder :=
  (s.orderMuster_moves .command).then (State.endMuster_moves _ _)

theorem State.changeMuster_endMuster_moves (s : State) (m : MusterUnit) (g : Origin) (o : CmdOutcome)
    (h : MusterEdge write s.lines.muster.deb s.muster.state m.state) :
    Moves write s ((s.changeMuster m g).endMuster o) :=
  (Move.musterChanged s m g h).chain.then (State.endMuster_moves _ _)

theorem State.cmdDrillStart_moves (s : State) : Moves write s s.cmdDrillStart := by
  unfold State.cmdDrillStart
  split
  next h => exact s.changeMuster_endMuster_moves _ _ _ (h ▸ .drill)
  · exact s.endMuster_moves _

theorem State.cmdDrillEnd_moves (s : State) : Moves write s s.cmdDrillEnd := by
  unfold State.cmdDrillEnd
  split
  next h => exact s.changeMuster_endMuster_moves _ _ _ (h ▸ .drillEnd)
  · exact s.endMuster_moves _

/-- ALL CLEAR is the move that leaves MUSTER (R65). -/
theorem State.cmdAllClear_moves (s : State) (h : write) : Moves write s s.cmdAllClear := by
  unfold State.cmdAllClear
  split
  · exact s.endMuster_moves _
  next inMuster =>
    split
    · exact s.endMuster_moves _
    next low =>
      refine s.changeMuster_endMuster_moves _ _ _ ?_
      rw [not_not.1 inMuster]
      exact .allClear h (by simpa using low)

theorem State.cmdStanddownEnd_moves (s : State) : Moves write s s.cmdStanddownEnd := by
  unfold State.cmdStanddownEnd
  split
  next h => exact s.changeMuster_endMuster_moves _ _ _ (h ▸ .standdownEnd)
  · exact s.endMuster_moves _

theorem State.standdownExpiry_moves (s : State) : Moves write s s.standdownExpiry := by
  unfold State.standdownExpiry
  split
  next h _ =>
    split
    · exact (Move.musterChanged s _ _ (h ▸ .standdownEnd)).chain
    · exact .refl
  · exact .refl

/-! ## The bell recogniser and the input lines (R50 to R58) -/

theorem State.takeLongBlast_moves (s : State) : Moves write s s.takeLongBlast := by
  have after : Quiet s { s with muster := s.muster.afterLong } := { state := rfl }
  unfold State.takeLongBlast
  split
  · dsimp only
    split
    · exact (after.moves.then (State.hand_moves _ _)).then (State.orderMuster_moves _ _)
    · exact after.moves
  · exact .refl

theorem State.bellChange_moves (s : State) (level : Bool) : Moves write s (s.bellChange level) := by
  unfold State.bellChange
  split
  · exact Quiet.moves {}
  · exact s.takeLongBlast_moves.quiet (u := { s.takeLongBlast with muster := _ })
      { state := (MusterUnit.bellFall_frame _ _).1 }

theorem State.gapExpiry_moves (s : State) : Moves write s s.gapExpiry := by
  unfold State.gapExpiry
  split
  · split
    · split
      · exact Quiet.moves {}
      · exact Quiet.moves { state := rfl }
    · exact .refl
  · exact .refl

/-- A filter that keeps its debounced level leaves every line's. -/
theorem Lines.put_deb (ls : Lines) (line : InputLine) (f : Filter) (h : f.deb = (ls.get line).deb) :
    (ls.put line f).muster.deb = ls.muster.deb ∧ (ls.put line f).maint.deb = ls.maint.deb := by
  cases line <;> simp_all [Lines.put, Lines.get]

theorem State.rawChange_moves (s : State) (line : InputLine) (level : Bool) : Moves write s (s.rawChange line level) := by
  have kept : ((s.lines.get line).rawChange level).deb = (s.lines.get line).deb := by
    unfold Filter.rawChange
    split <;> rfl
  obtain ⟨musterDeb, maintDeb⟩ := s.lines.put_deb line _ kept
  exact Quiet.moves { musterDeb, maintDeb }

theorem State.deglitch_moves (s : State) (line : InputLine) : Moves write s (s.deglitch line) := by
  unfold State.deglitch
  dsimp only
  split
  · obtain ⟨musterDeb, maintDeb⟩ := s.lines.put_deb line (s.lines.get line).deglitched rfl
    have taken : Quiet s { s with lines := s.lines.put line (s.lines.get line).deglitched } := { musterDeb, maintDeb }
    split
    · exact (State.bellChange_moves _ _).after taken
    · exact taken.moves
  · exact .refl

/-- The order that a rise of the MUSTER level gives does not depend on the lines, so that the level may be taken after
it: the muster state is MUSTER at every moment while the level is asserted (R61). -/
theorem State.orderMuster_lines (s : State) (ls : Lines) (cause : MusterCause) :
    State.orderMuster { s with lines := ls } cause = { s.orderMuster cause with lines := ls } := by
  unfold State.orderMuster
  cases s.muster.state with
  | muster | undecided => rfl
  | normal | drill | standdown =>
    dsimp only
    rw [changeMuster_eq, changeMuster_eq]
    rfl

/-- An order to muster leaves the state MUSTER once start-up has decided it (R61). -/
theorem State.orderMuster_state (s : State) (cause : MusterCause) :
    (s.orderMuster cause).muster.state = .muster ∨ s.muster.state = .undecided := by
  unfold State.orderMuster
  split
  case h_4 h => exact .inl h
  case h_5 h => exact .inr h
  all_goals
    obtain ⟨⟨muster, -⟩, -⟩ := changeMuster_changed s (s.muster.enterMuster cause) (originOf cause)
    exact .inl (by rw [muster]; rfl)

theorem State.zoneChange_moves (s : State) (n : Fin 8) (level : Bool) : Moves write s (s.zoneChange n level) := by
  have copied : Quiet s { s with route := { s.route with zones := s.route.zones.set n level } } := {}
  unfold State.zoneChange
  dsimp only
  split
  · exact copied.moves.then (State.appendArrows_moves _)
  · exact copied.moves

theorem State.maintFall_moves (s : State) : Moves write s s.maintFall := by
  unfold State.maintFall
  split
  · exact s.closeWindowWith_moves _
  · exact .refl

/-- A fall of MAINT leaves the window CLOSED (R27). -/
theorem State.maintFall_maint (s : State) : s.maintFall.cmd.maint = none := by
  unfold State.maintFall
  split
  · rfl
  next closed => simpa using closed

theorem State.maintFall_lines (s : State) (ls : Lines) :
    State.maintFall { s with lines := ls } = { s.maintFall with lines := ls } := by
  unfold State.maintFall
  cases h : s.cmd.maint.isSome <;> rfl

/-- A level is taken with its consumer's act. A rise of MUSTER orders the muster and a fall of MAINT shuts the window, so
that the level may be counted as taken after that (R27, R51, R61). -/
theorem State.levelChange_moves (s : State) (line : InputLine) (f : Filter) (h : f.deb ≠ (s.lines.get line).deb) :
    Moves write s (State.levelChange { s with lines := s.lines.put line f } line f.deb) := by
  cases line with
  | bell =>
    exact (Move.levelTaken s (s.lines.put .bell f) (fun _ hd => .inl hd) (fun _ hd => .inl hd)).chain
  | fire n =>
    have taken : Quiet s { s with lines := s.lines.put (.fire n) f } := { musterDeb := rfl, maintDeb := rfl }
    unfold State.levelChange
    dsimp only
    split
    · exact taken.moves.then (State.zoneChange_moves _ _ _)
    · exact taken.moves
  | muster =>
    cases level : f.deb with
    | false =>
      exact (Move.levelTaken s (s.lines.put .muster f) (fun _ hd => by simp [Lines.put, level] at hd)
        fun _ hd => .inl hd).chain
    | true =>
      simp only [State.levelChange, if_true, State.orderMuster_lines]
      refine (s.orderMuster_moves .line).tail (.levelTaken _ _ (fun _ _ => .inr ?_) fun _ hd => .inl ?_)
      · exact (s.orderMuster_state .line).imp_right fun u => by simp [State.orderMuster, u]
      · simpa [Lines.put] using hd
  | maint =>
    cases level : f.deb with
    | true =>
      exact (Move.levelTaken s (s.lines.put .maint f) (fun _ hd => .inl hd)
        fun _ hd => by simp [Lines.put, level] at hd).chain
    | false =>
      simp only [State.levelChange, Bool.false_eq_true, if_false, State.maintFall_lines]
      refine s.maintFall_moves.tail (.levelTaken _ _ (fun _ hd => .inl ?_) fun _ _ => .inr s.maintFall_maint)
      simpa [Lines.put] using hd

theorem State.debounce_moves (s : State) (line : InputLine) : Moves write s (s.debounce line) := by
  unfold State.debounce
  dsimp only
  split
  case isFalse => exact .refl
  case isTrue due =>
    split
    case isFalse idle => exact (Move.levelTaken s _ (fun h => absurd h idle) (fun h => absurd h idle)).chain
    case isTrue =>
      refine s.levelChange_moves line (s.lines.get line).debounced ?_
      change (s.lines.get line).deg ≠ _
      unfold Filter.debDue at due
      split at due
      · exact (by simpa using due : _ ∧ _).1
      · exact absurd due Bool.false_ne_true

/-! ## The other commands of the slot (R75 to R83, R110 to R112, R126, R151, R152) -/

/-- The effective stations are recomputed, and notices, causes and appends follow (R78). -/
theorem State.stationDone_moves (s : State) (before : StationTable) (entries : Vector Station 12) :
    Moves write s (s.stationDone before entries) := by
  have causes (u : State) (changed : List StationIx) : Moves write u (u.stationCauses changed) := by
    unfold State.stationCauses
    split
    · exact .refl
    · exact (State.notifyCabins_moves _).after {}
  exact (((Move.stationsSet s entries).chain.then (State.handAll_moves _ _)).then (causes _ _)).trans
    ((State.appendArrows_moves _).then (State.endCommand_moves _ _))

theorem State.withStation_moves (s : State) (station : Nat) {f : StationTable → StationIx → State}
    (hf : ∀ t i, Moves write s (f t i)) : Moves write s (s.withStation station f) := by
  unfold State.withStation
  split
  · exact s.endCommand_moves _
  · split
    · exact hf _ _
    · exact s.endCommand_moves _

theorem State.cmdSetAlternate_moves (s : State) (station alternate : Nat) :
    Moves write s (s.cmdSetAlternate station alternate) := by
  refine s.withStation_moves station fun t i => ?_
  split
  · exact s.stationDone_moves _ _
  · split
    · exact s.stationDone_moves _ _
    · exact s.endCommand_moves _

theorem State.cmdPublishPage_moves (s : State) (a b c : Nat) : Moves write s (s.cmdPublishPage a b c) := by
  unfold State.cmdPublishPage
  split
  · exact s.endCommand_moves _
  · split
    · exact s.endCommand_moves _
    · split
      · exact s.endCommand_moves _
      · exact (State.endCommand_moves _ _).after {}

theorem State.cmdSetClock_moves (s : State) (day second : Nat) : Moves write s (s.cmdSetClock day second) := by
  unfold State.cmdSetClock
  split
  · exact s.endCommand_moves _
  · exact ((State.computeSelections_moves _).then (State.endCommand_moves _ _)).after {}

/-- Either branch of a test is a chain of moves. -/
theorem ite_moves {c : Prop} [Decidable c] {s a b : State} (ha : Moves write s a) (hb : Moves write s b) :
    Moves write s (if c then a else b) := by
  split
  · exact ha
  · exact hb

theorem State.cmdScheduleShift_moves (s : State) (day minute : Nat) (minutes : Int) :
    Moves write s (s.cmdScheduleShift day minute minutes) := by
  unfold State.cmdScheduleShift
  repeat' apply ite_moves (s.endCommand_moves _)
  exact (State.endCommand_moves _ _).after {}

theorem State.cmdSetDefaultTarget_moves (s : State) (screen target : Nat) :
    Moves write s (s.cmdSetDefaultTarget screen target) := by
  unfold State.cmdSetDefaultTarget
  repeat' split
  case isFalse.isFalse.isFalse =>
    exact ((State.computeFeatured_moves _ _).then (State.endCommand_moves _ _)).after
      { screens := by simp [State.modScreen] }
  all_goals exact s.endCommand_moves _

theorem State.startScanRead_moves (s : State) (w : Window) (table : ScanTable) (next rebuilt : Nat) :
    Moves write s (s.startScanRead w table next rebuilt) := Quiet.moves { pwq := rfl, iwq := rfl, maint := rfl }

theorem State.cmdRescan_moves (s : State) (arg : Nat) : Moves write s (s.cmdRescan arg) := by
  unfold State.cmdRescan
  split
  · exact s.endCommand_moves _
  · split
    · exact s.endCommand_moves _
    · split
      · exact s.endCommand_moves _
      · exact s.startScanRead_moves _ _ _ _

theorem State.cmdSetRing_moves (s : State) : Moves write s s.cmdSetRing := by
  unfold State.cmdSetRing
  dsimp only
  split
  · exact s.endCommand_moves _
  · split
    · exact s.endCommand_moves _
    next count =>
      split
      · exact s.endCommand_moves _
      next mark =>
        split
        · exact s.endCommand_moves _
        · exact (Move.ringMoved s
            { base := s.notice.descBase, count := s.notice.descCount, watermark := s.notice.descWatermark } (by unfold RingConf.Sound; dsimp only; omega)).chain.then (State.endCommand_moves _ _)

/-! ## The command slot (R147, R150) -/

/-- Of the commands only ALL CLEAR, code 4, leaves MUSTER (R61 to R67). -/
theorem State.startCommand_moves (s : State) (code : Nat) (h : code = 4 → write) :
    Moves write s (s.startCommand code) := by
  unfold State.startCommand
  split
  case h_1 => exact s.cmdDrillStart_moves
  case h_2 => exact s.cmdDrillEnd_moves
  case h_3 => exact s.cmdMusterOrder_moves
  case h_4 => exact s.cmdAllClear_moves (h rfl)
  case h_5 => exact s.cmdStanddownEnd_moves
  case h_6 => exact s.withStation_moves _ fun _ _ => s.stationDone_moves _ _
  case h_7 => exact s.withStation_moves _ fun _ _ => s.stationDone_moves _ _
  case h_8 => exact s.cmdSetAlternate_moves _ _
  case h_9 => exact s.cmdPublishPage_moves _ _ _
  case h_10 => exact s.cmdOpenWindow_moves
  case h_11 => exact s.cmdCloseWindow_moves
  case h_12 => exact s.cmdSetClock_moves _ _
  case h_13 => exact s.cmdScheduleShift_moves _ _ _
  case h_14 => exact (State.endCommand_moves _ _).after {}
  case h_15 => exact s.cmdSetDefaultTarget_moves _ _
  case h_16 => exact s.cmdRescan_moves _
  case h_17 => exact s.cmdSetRing_moves
  case h_18 => exact s.endCommand_moves _

theorem State.actOnWord_moves (s : State) (h : vecByte s.cmd.copy 0 = 4 → write) : Moves write s s.actOnWord := by
  unfold State.actOnWord
  dsimp only
  split
  · exact .refl
  · split
    · exact Quiet.moves {}
    · exact (State.startCommand_moves _ _ fun e => h (BitVec.toNat_inj.1 e)).after {}

/-- A delivered line of the slot starts ALL CLEAR only where its code then stands in the copy (R147). -/
theorem State.deliverSlot_moves (s : State) (w : WriteLine)
    (h : vecByte (mergeBytes s.cmd.copy 0 w) 0 = 4 → write) : Moves write s (s.deliverSlot w) := by
  unfold State.deliverSlot
  dsimp only
  split
  · exact (State.actOnWord_moves { s with cmd := { s.cmd with copy := mergeBytes s.cmd.copy 0 w } } h).after {}
  · exact Quiet.moves {}

/-! ## Delivered lines (R20, R87, R116, R128, R134, R155) -/

theorem State.deliverRing_moves (s : State) (w : WriteLine) : Moves write s (s.deliverRing w) := by
  have copied : Quiet s { s with notice := { s.notice with desc := mergeBytes s.notice.desc 0 w } } := {}
  unfold State.deliverRing
  dsimp only
  split
  · exact copied.moves.tail (.headTested _)
  · exact copied.moves

theorem State.takeEntry_moves (s : State) (i o : Nat) (w : WriteLine) : Moves write s (s.takeEntry i o w) := by
  unfold State.takeEntry
  split
  · exact (Move.entryTaken s i fun e => mergeBytes e.bytes o w).chain
  · exact .refl

theorem State.deliverProgramme_moves (s : State) (k : Nat) (w : WriteLine) :
    Moves write s (s.deliverProgramme k w) := by
  unfold State.deliverProgramme
  split
  · exact ((s.takeEntry_moves _ _ _).then (State.takeEntry_moves _ _ _ _)).then (State.computeSelections_moves _)
  · exact .refl

/-- Status bytes of segments change their software states and the count of bad codes alone. -/
theorem RouteUnit.takeBytes_work (l : List (Nat × Byte)) (r : RouteUnit) :
    (l.foldl (fun r q => r.takeByte q.1 q.2) r).work = r.work :=
  List.foldlRecOn (motive := fun v : RouteUnit => v.work = r.work) l _ rfl fun v hv q _ => by
    rw [← hv]
    unfold RouteUnit.takeByte
    repeat' split
    all_goals rfl

theorem State.takeBytes_moves (s : State) (l : List (Nat × Byte)) : Moves write s (s.takeBytes l) := by
  have taken : Quiet s { s with route := l.foldl (fun r q => r.takeByte q.1 q.2) s.route } :=
    { work := RouteUnit.takeBytes_work l s.route }
  unfold State.takeBytes
  dsimp only
  split
  · exact taken.moves
  · exact taken.moves.then (State.appendArrows_moves _)

theorem State.deliverCabin_moves (s : State) (k : Nat) (w : WriteLine) (seq : Nat) :
    Moves write s (s.deliverCabin k w seq) :=
  (State.notifyCabins_moves ((s.cabinRecord (2 * k) 0 w seq).cabinRecord (2 * k + 1) 32 w seq)).after {}

theorem State.deliverControl_moves (s : State) (k : Nat) (w : WriteLine)
    (h : k = 0 → vecByte (mergeBytes s.cmd.copy 0 w) 0 = 4 → write) : Moves write s (s.deliverControl k w) := by
  unfold State.deliverControl
  split
  · exact s.deliverSlot_moves w (h rfl)
  · exact s.deliverRing_moves w
  · exact .refl

/-- The line of the command slot, as the window decoder finds it (R17, R21). -/
def Decoder.isSlot (c : Decoder) (a : Addr) : Prop := c.classOf a = .control ∧ indexIn c.controlWindow a = 0

theorem State.deliverLine_moves (s : State) (seq : Nat) (a : Addr) (w : WriteLine)
    (h : s.cfg.isSlot a → vecByte (mergeBytes s.cmd.copy 0 w) 0 = 4 → write) :
    Moves write s (s.deliverLine seq a w) := by
  have touched (table : ScanTable) (k : Nat) : Quiet s (s.touchScan table k w.en) := { maint := rfl }
  unfold State.deliverLine
  dsimp only
  split
  next control => exact s.deliverControl_moves _ _ fun k => h ⟨control, k⟩
  · exact (State.deliverProgramme_moves _ _ _).after (touched ..)
  · exact (State.takeBytes_moves _ _).after (touched ..)
  · exact (State.deliverCabin_moves _ _ _ _).after (touched ..)
  · exact .refl
  · exact .refl

/-! ## Requests at the PSP (R2, R5, R22, R24, R38) -/

theorem State.countDrop_moves (s : State) (reason : DropReason) (subject : Addr) :
    Moves write s (s.countDrop reason subject) := by
  unfold State.countDrop
  dsimp only
  split
  · exact Quiet.moves {}
  · exact (State.hand_moves _ _).after {}

/-- The lines of a write are delivered one after another; `write` is asked for where one of them may start ALL CLEAR. -/
theorem deliverLines_moves (seq : Nat) (l : List (Addr × WriteLine)) (s : State)
    (h : (∃ q ∈ l, s.cfg.isSlot q.1) → write) :
    Moves write s (l.foldl (fun t q => t.deliverLine seq q.1 q.2) s) := by
  induction l generalizing s with
  | nil => exact .refl
  | cons q l ih =>
    refine (s.deliverLine_moves seq q.1 q.2 fun slot _ => h ⟨q, by simp, slot⟩).then (ih _ fun hl => h ?_)
    obtain ⟨p, hp, slot⟩ := hl
    exact ⟨p, by simp [hp], by simpa using slot⟩

theorem State.writeArrives_moves (s : State) (first : Addr) (lines : List WriteLine) :
    Moves True s (s.writeArrives first lines) := by
  unfold State.writeArrives
  dsimp only
  split
  · exact Quiet.moves {}
  · split
    · exact (State.countDrop_moves _ _ _).after {}
    · split
      · exact Quiet.moves {}
      next room =>
        exact ((Move.accepted (s.answerPsp .accept) _ trivial (not_lt.1 room)).chain.after {}).then
          (deliverLines_moves _ _ _ fun _ => trivial)

theorem State.windowWrite_moves (s : State) (w : Option Window) (k : Nat) (line : WriteLine) :
    Moves True s (s.windowWrite w k line) := by
  unfold State.windowWrite
  split
  · exact Quiet.moves {}
  · split
    · exact ite_moves (s.writeArrives_moves _ _) .refl
    · exact .refl

theorem State.coverageEvent_moves (s : State) : Moves write s s.coverageEvent :=
  (s.handAll_moves s.coverageNotices).quiet (u := (s.handAll s.coverageNotices).clearReport.driveShown)
    { state := rfl, screens := rfl }

theorem State.evalCovered_moves (s : State) (i : Nat) : Moves write s (s.evalCoveredAt i).coverageEvent :=
  (State.coverageEvent_moves _).after { screens := by simp [State.evalCoveredAt, State.modScreen] }

theorem State.frameStart_moves (s : State) (i : Nat) (sc : Screen) : Moves write s (s.frameStart i sc) :=
  ((State.handAll_moves _ _).after { screens := by simp [State.modScreen] }).then (State.evalCovered_moves _ _)

theorem State.resolveLine_moves (s : State) (tag : Tag) (a : Addr) : Moves write s (s.resolveLine tag a).1 := by
  unfold State.resolveLine
  repeat' split
  case h_1.isTrue => exact s.frameStart_moves _ _
  all_goals exact .refl

theorem takeReadLines_moves (tag : Tag) (l : List Addr) (acc : State × List ReadLine) :
    Moves write acc.1 (l.foldl (takeReadLine tag) acc).1 := by
  induction l generalizing acc with
  | nil => exact .refl
  | cons a l ih => exact (acc.1.resolveLine_moves tag a).then (ih (takeReadLine tag acc a))

theorem State.readArrives_moves (s : State) (tag : Tag) (first : Addr) (count : Nat) :
    Moves write s (s.readArrives tag first count) := by
  unfold State.readArrives
  split
  · exact Quiet.moves {}
  · split
    · exact Quiet.moves {}
    · have resolved : Moves write s (s.resolveRead tag first count).1 := takeReadLines_moves tag _ (s, [])
      exact resolved.quiet { pwq := rfl, iwq := rfl }

end
end Sys2Proof.Machine

/-! SUPPORT. The moves of the memory path's answers, of own reads, of the writer's turns, of time and of start-up, and
of every command and step (R4 to R14, R99 to R105, R126 to R130, R154 to R165). -/

namespace Sys2Proof.Machine

open Sys2Proof

-- One proof after another: many at once run out of threads.
set_option Elab.async false

section
variable {write : Prop}

/-! ## The queues' heads, answers and timeouts (R4, R7 to R12) -/

theorem State.answerRead_moves (s : State) (i : Fin 8) : Moves write s (s.answerRead i) := by
  unfold State.answerRead
  split
  · exact ite_moves (Quiet.moves { pwq := rfl, iwq := rfl }) .refl
  · exact .refl

theorem State.pwqLeaves_moves (s : State) (ok : Bool) : Moves write s (s.pwqLeaves ok) := by
  unfold State.pwqLeaves
  split
  next e rest _ h _ =>
    have popped : Moves write s { s with path := s.path.popPwq e } :=
      (Move.left s (s.path.popPwq e) (List.tail_sublist _) le_rfl).chain
    dsimp only
    split
    · exact popped
    · exact (popped.quiet (u := State.countMemFault { s with path := s.path.popPwq e }) { pwq := rfl, iwq := rfl }).then
        (State.hand_moves _ _)
  · exact .refl

theorem State.iwqLeaves_moves (s : State) (ok : Bool) : Moves write s (s.iwqLeaves ok) := by
  unfold State.iwqLeaves
  split
  next e rest _ h _ =>
    have popped : Moves write s { s with path := { s.path with iwq := rest, iwqTimer := none } } :=
      (Move.left s { s.path with iwq := rest, iwqTimer := none } (.refl _) (by simp [h])).chain
    dsimp only
    split
    · exact popped
    · exact popped.quiet { pwq := rfl, iwq := rfl }
  · exact .refl

theorem State.refreshCabin_moves (s : State) (i seq : Nat) (c : Cabin) : Moves write s (s.refreshCabin i seq c) := by
  unfold State.refreshCabin
  dsimp only
  split
  · exact Quiet.moves {}
  · exact (State.notifyCabins_moves _).after {}

theorem State.observeRefresh_moves (s : State) (i seq : Nat) : Moves write s (s.observeRefresh i seq) := by
  unfold State.observeRefresh
  split
  · exact s.refreshCabin_moves _ _ _
  · exact .refl

/-- A busy tracker is no matter of the queues. -/
theorem State.setTracker_quiet (s : State) (i : Fin 8) (t : Tracker) : Quiet s (s.setTracker i t) :=
  { pwq := rfl, iwq := rfl }

theorem State.lineData_moves (s : State) (i : Fin 8) (l : Nat) (d : LineData) : Moves write s (s.lineData i l d) := by
  unfold State.lineData
  split
  · split
    · refine ite_moves ?_ .refl
      split
      · exact ((State.observeRefresh_moves _ _ _).then (State.observeRefresh_moves _ _ _)).after (s.setTracker_quiet _ _)
      · exact (s.setTracker_quiet _ _).moves
    · exact .refl
  · exact .refl

theorem State.sourceFault_moves (s : State) (tag : Tag) (a : Addr) : Moves write s (s.sourceFault tag a) := by
  unfold State.sourceFault
  split
  next i _ =>
    split
    next sc _ =>
      exact (s.handAll_moves (s.sourceFaultNotices i sc a)).quiet { screens := by simp [State.modScreen] }
    · exact .refl
  · exact .refl

theorem State.lineFails_moves (s : State) (i : Fin 8) (l : Nat) : Moves write s (s.lineFails i l) := by
  unfold State.lineFails
  split
  · split
    · refine ite_moves ?_ .refl
      split
      · exact (State.sourceFault_moves _ _ _).after (s.setTracker_quiet _ _)
      · exact Quiet.moves { pwq := rfl, iwq := rfl }
      · exact .refl
    · exact .refl
  · exact .refl

/-! ## Own reads, rescans and route computations (R10, R99 to R105, R126 to R130) -/

theorem State.takeUnits_moves (s : State) (table : ScanTable) (l : List ScanUnit) :
    Moves write s (s.takeUnits table l) := by
  cases table with
  | programme =>
    refine Moves.then ?_ (State.computeSelections_moves _)
    exact List.foldlRecOn (motive := fun t : State => Moves write s t) l _ .refl fun t ht u _ =>
      ht.tail (.entryTaken t u.index fun _ => sliceBytes u.data u.offset)
  | segments => exact s.takeBytes_moves _
  | cabins =>
    have homes : Quiet s (l.foldl (fun t u => t.takeHome u.index (vecByte u.data (u.offset + 1))) s) := {}
    exact homes.moves.then (State.notifyCabins_moves _)

theorem State.scanHandOver_moves (s : State) (lines : List (Option LineData)) :
    Moves write s (s.scanHandOver lines) := by
  have ended (u : State) (n : Nat) (f : Bool) : Moves write u (u.endScan n f) := (State.endCommand_moves _ _).after {}
  unfold State.scanHandOver
  split
  · dsimp only
    apply Moves.then (s.takeUnits_moves _ _)
    split
    · exact ended _ _ _
    · split
      · exact ite_moves (State.startScanRead_moves _ _ _ _ _) (ended _ _ _)
      · exact ended _ _ _
  · exact .refl

theorem State.endComputation_moves (s : State) (i : Nat) (res : RouteResult) : Moves write s (s.endComputation i res) :=
  (State.handAll_moves
    { s with route := { s.route with results := s.route.results.set i res, flight := none } } _).after {}

theorem State.pursue_moves (s : State) (i : Nat) (t : PresentTarget) : Moves write s (s.pursue i t) := by
  unfold State.pursue
  split
  · exact s.endComputation_moves _ _
  · exact s.endComputation_moves _ _
  · split
    · exact s.endComputation_moves _ _
    · exact Quiet.moves { pwq := rfl, iwq := rfl }

theorem State.startComputation_moves (s : State) : Moves write s s.startComputation := by
  unfold State.startComputation
  split
  next i rest _ work =>
    have taken := (Move.workTaken (write := write) s i rest work).chain
    dsimp only
    split
    · exact taken.then (State.pursue_moves _ _ _)
    · exact taken
  · exact .refl

theorem State.routeHandOver_moves (s : State) (lines : List (Option LineData)) :
    Moves write s (s.routeHandOver lines) := by
  unfold State.routeHandOver
  split
  · split
    · dsimp only
      split
      · split
        · exact (State.endComputation_moves _ _ _).after { work := rfl }
        · exact s.endComputation_moves _ _
      · exact s.pursue_moves _ _
    · exact Quiet.moves {}
  · exact .refl

theorem State.setOwn_moves (s : State) (k : Fin 2) (lines : List OwnLine) : Moves write s (s.setOwn k lines) := by
  have freed : Quiet s { s with path := { s.path with own := s.path.own.set k none } } := { pwq := rfl, iwq := rfl }
  unfold State.setOwn
  split
  · exact Quiet.moves { pwq := rfl, iwq := rfl }
  · unfold State.handOver
    split
    · exact (State.routeHandOver_moves _ _).after freed
    · exact (State.scanHandOver_moves _ _).after freed

theorem State.ownLineAnswer_moves (s : State) (k : Fin 2) (l : Nat) (d : Option LineData) :
    Moves write s (s.ownLineAnswer k l d) := by
  have counted : Quiet s s.countMemFault := { pwq := rfl, iwq := rfl }
  unfold State.ownLineAnswer
  split
  · split
    · refine ite_moves ?_ .refl
      split
      · exact s.setOwn_moves _ _
      · exact (State.setOwn_moves _ _ _).after counted
    · exact .refl
  · exact .refl

theorem State.timeout_moves (s : State) (r : MspRef) : Moves write s (s.timeout r) := by
  unfold State.timeout
  split
  · exact ite_moves (s.pwqLeaves_moves _) .refl
  · exact ite_moves (s.iwqLeaves_moves _) .refl
  · exact ite_moves (s.lineFails_moves _ _) .refl
  · exact ite_moves (s.ownLineAnswer_moves _ _ _) .refl

/-! ## The arbiter (R13, R14) -/

theorem State.issueRead_quiet (s : State) (scanout : Bool) : Quiet s (s.issueRead scanout) := by
  unfold State.issueRead
  split
  · split
    · split
      · exact { pwq := rfl, iwq := rfl }
      · exact {}
    · exact {}
  · exact {}

theorem State.issuePwq_quiet (s : State) : Quiet s s.issuePwq := by
  unfold State.issuePwq
  split
  · exact { pwq := rfl, iwq := rfl }
  · exact {}

theorem State.issueIwq_quiet (s : State) : Quiet s s.issueIwq := by
  unfold State.issueIwq
  split
  · exact { pwq := rfl, iwq := rfl }
  · exact {}

theorem State.issueOwnLine_quiet (s : State) (k : Fin 2) : Quiet s (s.issueOwnLine k) := by
  unfold State.issueOwnLine
  split
  · split
    · split
      · exact { pwq := rfl, iwq := rfl }
      · exact {}
    · exact {}
  · exact {}

theorem State.issueOwn_moves (s : State) : Moves write s s.issueOwn :=
  ite_moves s.issueIwq_quiet.moves (ite_moves (s.issueOwnLine_quiet 0).moves (s.issueOwnLine_quiet 1).moves)

theorem State.issueFrom_moves (s : State) (c : Source) : Moves write s (s.issueFrom c) := by
  cases c with
  | scanout => exact (s.issueRead_quiet true).moves
  | otherReads => exact (s.issueRead_quiet false).moves
  | pwqHead => exact s.issuePwq_quiet.moves
  | own => exact s.issueOwn_moves

theorem State.grant_moves (s : State) : Moves write s s.grant := by
  have noted (high : Bool) (c : Source) : (s.path.noteGrant high c).pwq = s.path.pwq ∧
      (s.path.noteGrant high c).iwq = s.path.iwq := by cases high <;> exact ⟨rfl, rfl⟩
  unfold State.grant
  split
  next high c _ =>
    exact (State.issueFrom_moves _ _).after { pwq := (noted high c).1, iwq := congrArg List.length (noted high c).2 }
  · exact .refl

/-! ## The Notice writer's turns (R154, R157, R158) -/

theorem State.noticeTurn_moves (s : State) (h : s.noticeTurnReady = true) : Moves write s s.noticeTurn := by
  obtain ⟨⟨-, space⟩, room⟩ : (s.notice.queue ≠ [] ∧ s.notice.unread < s.notice.ring.count - 1) ∧
      2 ≤ s.path.iwqFree := by simpa [State.noticeTurnReady] using h
  unfold State.noticeTurn
  split
  next n rest queue =>
    have free : 0 < (State.placeIwq { s with notice := s.notice.taken n rest }
        (recordEntry s.notice.ring s.notice.tail n)).path.iwqFree := by
      unfold Path.iwqFree at room ⊢
      simp only [State.placeIwq, List.length_append, List.length_singleton]
      omega
    exact (((Move.taken s n rest queue space).chain).tail (.placed _ _ (Nat.zero_lt_of_lt room))).tail (.placed _ _ free)
  · exact .refl

/-- As many lines as there is room for are placed (R158). -/
theorem placeStatus_moves (l : List (Fin 7)) (s : State) (h : l.length ≤ s.path.iwqFree) :
    Moves write s (l.foldl State.placeStatus s) := by
  induction l generalizing s with
  | nil => exact .refl
  | cons i l ih =>
    have placed : Moves write s (s.placeStatus i) :=
      (Move.placed { s with notice := { s.notice with dirty := s.notice.dirty.set i false } } (s.statusEntry i)
        (Nat.lt_of_lt_of_le (Nat.succ_pos _) h)).chain.after {}
    refine placed.then (ih _ ?_)
    unfold Path.iwqFree at h ⊢
    simp only [State.placeStatus, State.placeIwq, List.length_append, List.length_cons, List.length_nil] at h ⊢
    omega

theorem State.statusTurn_moves (s : State) (lines : List (Fin 7)) : Moves write s (s.statusTurn lines) :=
  (placeStatus_moves (lines.take s.path.iwqFree) s (List.length_take_le _ _)).quiet
    (u := s.statusTurn lines)
    { queue := rfl, ring := rfl, head := rfl, tail := rfl, urgent := rfl, irq := rfl, pwq := rfl, iwq := rfl }

theorem State.writerTurn_moves (s : State) : Moves write s s.writerTurn := by
  unfold State.writerTurn
  split
  · exact .refl
  next free =>
    refine ite_moves (s.statusTurn_moves _) ?_
    split
    next turn found =>
      have ready := List.find?_some found
      cases turn with
      | notices => exact s.noticeTurn_moves ready
      | status => exact s.statusTurn_moves _
      | ringTail =>
        exact (Move.placed { s with notice := { s.notice with tailDue := false, lastTurn := .ringTail } } (s.tailEntry 0)
          (Nat.pos_of_ne_zero fun none => free (.inr none))).chain.after {}
    · exact .refl

/-! ## Timers, clocks and ticks (R46, R109, R113, R143, R164) -/

theorem State.darkExpiry_moves (s : State) (i : Nat) : Moves write s (s.darkExpiry i) := by
  unfold State.darkExpiry
  split
  · split
    · refine ite_moves ?_ .refl
      exact ((State.hand_moves _ _).after { screens := by simp [State.modScreen] }).then (State.evalCovered_moves _ _)
    · exact .refl
  · exact .refl

theorem State.clockTick_moves (s : State) : Moves write s s.clockTick := by
  have same (p : ProgUnit) : p.advance.shadow = p.shadow ∧ p.advance.order = p.order := by
    unfold ProgUnit.advance
    split <;> exact ⟨rfl, rfl⟩
  have advanced : Quiet s { s with prog := s.prog.advance } :=
    { shadow := (same s.prog).1, order := (same s.prog).2 }
  unfold State.clockTick
  refine ite_moves ?_ .refl
  dsimp only
  split
  next h _ =>
    have shifted : Quiet s { s with prog := s.prog.advance.applyShift h } :=
      { shadow := (same s.prog).1, order := (same s.prog).2 }
    exact (shifted.moves.then (State.hand_moves _ _)).then (State.computeSelections_moves _)
  · exact ite_moves (advanced.moves.then (State.computeSelections_moves _)) advanced.moves

theorem State.uptimeTick_moves (s : State) : Moves write s s.uptimeTick :=
  ite_moves ((State.notifyCabins_moves _).after {}) .refl

theorem State.msTick_quiet (s : State) : Quiet s s.msTick := by
  have clock : s.prog.tick.shadow = s.prog.shadow ∧ s.prog.tick.order = s.prog.order := by
    unfold ProgUnit.tick
    split <;> exact ⟨rfl, rfl⟩
  unfold State.msTick
  split
  · exact {}
  · dsimp only
    split
    · exact { shadow := clock.1, order := clock.2, state := rfl, musterDeb := rfl, maintDeb := rfl
              maint := by simp [tickTimer] }
    · exact { musterDeb := rfl, maintDeb := rfl }

theorem State.tick_moves (s : State) : Moves write s s.tick := by
  unfold State.tick
  split
  · exact .refl
  · dsimp only
    split
    · exact Quiet.moves { pwq := rfl, iwq := rfl }
    · exact (State.msTick_quiet _).moves.after { pwq := rfl, iwq := rfl }

/-! ## Start-up (R160 to R165, R170) -/

theorem State.release_moves (s : State) (strap1 strap0 : StrapLevel) : Moves write s (s.release strap1 strap0) := by
  unfold State.release
  split
  next reset =>
    have off : s.started = false := by simp [State.started, reset]
    exact (Move.levelTaken s s.lines.restart (by simp [off]) (by simp [off])).chain.tail
      (.loaded _ _ off (.inl rfl) fun c checked => .inl checked)
  · exact .refl

/-- No staged screen table has more than 24 screens (R170). -/
def ScreensFit (l : Loaded) : Prop := ∀ body, (3, body) ∈ l.staging → (listByte body 0).toNat ≤ 24

theorem RecordsStaged.screensFit {l : List Byte} {acc out : Loaded} (h : RecordsStaged l acc out)
    (hacc : ScreensFit acc) : ScreensFit out := by
  induction h with
  | done | short | runsPast | badLength => exact hacc
  | unknown _ _ _ _ _ _ _ _ _ _ ih => exact ih hacc
  | repeated _ _ _ _ _ _ _ _ _ _ _ ih => exact ih hacc
  | staged type _ _ body _ acc _ _ fits _ _ ih =>
    refine ih fun b hb => ?_
    obtain old | ⟨screens, rfl⟩ : (3, b) ∈ acc.staging ∨ 3 = type.toNat ∧ b = stagedPart type.toNat body := by
      simpa using hb
    · exact hacc b old
    · rw [← screens] at fits ⊢
      obtain ⟨c, le, -, rfl⟩ : ∃ c, c ≤ 24 ∧ body.length = 1 + 64 * c ∧ (listByte body 0).toNat = c := by
        simpa [BodyFits] using fits
      exact le

theorem loadRecords_screensFit (rom : List Byte) : ScreensFit (loadRecords rom) := by
  have length : (romRecords rom).length = romLength rom := by simp [romRecords]
  exact (stageRecords_staged _ _ _ (by omega)).screensFit (by simp [ScreensFit])

/-- The default ring and every ring that CHECK has brought into range are in range (R163). -/
theorem checkRing_sound (control : Addr) (b : Nat → Byte) : (checkRing control b).value.Sound := by
  have default : (defaultRing control).Sound := by simp [RingConf.Sound, defaultRing]
  unfold checkRing
  dsimp only
  split
  · exact default
  · have count := clampTo_value (low := 16) (high := 1024) (n := (field16 b 4).toNat) (by decide)
    unfold RingConf.Sound
    dsimp only
    have mark := clampTo_value (low := 1) (high := (clampTo 16 1024 (field16 b 4).toNat).value - 1)
      (n := (field16 b 6).toNat) (by omega)
    omega

theorem checkContents_bounded (control : Addr) (l : Loaded) (fit : ScreensFit l) :
    (checkContents control l.staging).contents.screens.length ≤ 24 ∧
    (checkContents control l.staging).contents.ring.Sound := by
  constructor
  · suffices h : (listByte ((stagedOf l.staging 3).getD []) 0).toNat ≤ 24 by simpa [checkContents] using h
    cases found : stagedOf l.staging 3 with
    | none => simp [listByte]
    | some body =>
      unfold stagedOf at found
      obtain ⟨q, hq, rfl⟩ := Option.map_eq_some_iff.1 found
      have type : q.1 = 3 := by simpa using List.find?_some hq
      exact fit q.2 (type ▸ List.mem_of_find?_eq_some hq)
  · unfold checkContents
    dsimp only
    split
    · exact checkRing_sound _ _
    · simp [RingConf.Sound, defaultRing]

theorem State.romLoaded_moves (s : State) (rom : List Byte) : Moves write s (s.romLoaded rom) := by
  unfold State.romLoaded
  split
  next load =>
    refine (Move.loaded s _ (by simp [State.started, load]) (.inr rfl) fun c checked => .inr ?_).chain
    have fit : ScreensFit (if startReason rom = .signature then {} else loadRecords rom) := by
      split
      · simp [ScreensFit]
      · exact loadRecords_screensFit rom
    obtain ⟨-, contents⟩ := Option.ite_none_right_eq_some.1 checked
    rw [← Option.some_inj.1 contents]
    exact checkContents_bounded _ _ fit
  · exact .refl

theorem State.startUpEnds_moves (s : State) : Moves write s s.startUpEnds := by
  by_cases due : s.loader.checkDone = true
  · have check : s.loader.phase = .check := by simp [Loader.checkDone] at due; exact due.1
    exact (Move.startUp s check).chain
  · rw [State.startUpEnds, if_neg due]

/-! ## Commands and steps -/

/-- The status block's bookkeeping is quiet (R157). -/
theorem StatusFollows.quiet {u t : State} (h : StatusFollows u t) : Quiet u t := by
  obtain ⟨state, writes, -⟩ := h
  rw [state]
  exact { iwq := writes.length_eq.symm }

theorem Moves.settleWith {s u : State} (h : Moves write s u) (mark : Bool) (before : State) :
    Moves write s (settleWith mark before u) :=
  h.quiet (settleWith_follows mark before u).quiet

/-- A command is RESET, or the arrival of a WRITE, or a chain of moves in which no WRITE need be taken. -/
theorem exec_moves {c : Instr} {s t : State} (h : exec c s = .next t) :
    (c = .reset ∧ t = s.doReset) ∨ (∃ first lines, t = settle s (s.writeArrives first lines)) ∨ Moves write s t := by
  have taken {first : Addr} {lines : List WriteLine} (h : commit s (s.writeArrives first lines) = .next t) :
      ∃ first lines, t = settle s (s.writeArrives first lines) := by
    cases h
    exact ⟨first, lines, rfl⟩
  have moved {u : State} (h : commit s u = .next t) (m : Moves write s u) : Moves write s t := by
    cases h
    exact m.settleWith true s
  have window {w : Option Window} {k : Nat} {line : WriteLine} (h : commit s (s.windowWrite w k line) = .next t) :
      (∃ first lines, t = settle s (s.writeArrives first lines)) ∨ Moves write s t := by
    unfold State.windowWrite at h
    split at h
    · exact .inr (moved h (Quiet.moves {}))
    · split at h
      · split at h
        · exact .inl (taken h)
        · exact .inr (moved h .refl)
      · exact .inr (moved h .refl)
  cases c with
  | reset => cases h; exact .inl ⟨rfl, rfl⟩
  | lateAnswer _ => cases h; exact .inr (.inr .refl)
  | iwqWriteAnswer a => cases h; exact .inr (.inr ((s.iwqLeaves_moves _).settleWith _ s))
  | memoryTimeout r => cases h; exact .inr (.inr ((s.timeout_moves r).settleWith _ s))
  | programmeLineWrite _ _ _ => exact .inr (window h)
  | segmentStatusWrite _ _ _ => exact .inr (window h)
  | cabinRecordWrite _ _ _ => exact .inr (window h)
  | pspRead _ _ _ => exact .inr (.inr (moved h (s.readArrives_moves _ _ _)))
  | arbiterGrant => exact .inr (.inr (moved h s.grant_moves))
  | pwqWriteAnswer _ => exact .inr (.inr (moved h (s.pwqLeaves_moves _)))
  | readLineData _ _ _ => exact .inr (.inr (moved h (s.lineData_moves _ _ _)))
  | readLineError _ _ => exact .inr (.inr (moved h (s.lineFails_moves _ _)))
  | readAnswer _ => exact .inr (.inr (moved h (s.answerRead_moves _)))
  | ownReadLineAnswer _ _ _ => exact .inr (.inr (moved h (s.ownLineAnswer_moves _ _ _)))
  | noticeWriterTurn => exact .inr (.inr (moved h s.writerTurn_moves))
  | resultWordPlacement => exact .inr (.inr (moved h s.placeHeld_moves))
  | rawLineChange _ _ => exact .inr (.inr (moved h (s.rawChange_moves _ _)))
  | deglitchExpiry _ => exact .inr (.inr (moved h (s.deglitch_moves _)))
  | debounceExpiry _ => exact .inr (.inr (moved h (s.debounce_moves _)))
  | longBlast => exact .inr (.inr (moved h s.takeLongBlast_moves))
  | gapTimerExpiry => exact .inr (.inr (moved h s.gapExpiry_moves))
  | standdownTimerExpiry => exact .inr (.inr (moved h s.standdownExpiry_moves))
  | maintTimerExpiry => exact .inr (.inr (moved h s.maintExpiry_moves))
  | darkTimerExpiry _ => exact .inr (.inr (moved h (s.darkExpiry_moves _)))
  | clockAdvance => exact .inr (.inr (moved h s.clockTick_moves))
  | uptimeSecond => exact .inr (.inr (moved h s.uptimeTick_moves))
  | routeComputationStart => exact .inr (.inr (moved h s.startComputation_moves))
  | resetRelease _ _ => exact .inr (.inr (moved h (s.release_moves _ _)))
  | romLoadEnd _ => exact .inr (.inr (moved h (s.romLoaded_moves _)))
  | startUpEnd => exact .inr (.inr (moved h s.startUpEnds_moves))
  | pspWrite _ | headIndexWrite _ _ _ _ | drillStart _ _ | drillEnd _ _ | musterOrder _ _ | allClear _ _
  | standdownEnd _ _ | stationClose _ _ _ | stationOpen _ _ _ | setAlternate _ _ _ _ | publishPage _ _ _ _ _
  | openWindow _ _ | closeWindow _ _ | setClock _ _ _ _ | scheduleShift _ _ _ _ _ | cancelShift _ _
  | setDefaultTarget _ _ _ _ | rescan _ _ _ | setRing _ _ | unknownCommand _ _ _ =>
    exact .inr (.inl (taken h))

/-- What RESET leaves true and every move keeps, every step keeps. -/
theorem step_keeps {p : State → Prop} (reset : ∀ s : State, p s.doReset)
    (move : ∀ {s t : State}, Move True s t → p s → p t) {s t : State} (hs : p s) (h : step s = .next t) : p t := by
  have chain {s t : State} (m : Moves True s t) (hs : p s) : p t := m.keep move hs
  unfold step at h
  split at h
  · cases h
    exact chain s.tick_moves hs
  next c rest _ =>
    have hs : p { s with pending := rest } := move (.quiet {}) hs
    obtain ⟨-, rfl⟩ | ⟨first, lines, rfl⟩ | m := exec_moves h
    · exact reset _
    · exact chain ((State.writeArrives_moves _ _ _).settleWith true _) hs
    · exact chain m hs

end
end Sys2Proof.Machine

/-! SUPPORT. The invariants that every move keeps: queues, maintenance window, MUSTER level, work list, ring, station
table and programme list. -/

namespace Sys2Proof.Machine

open Sys2Proof

-- One proof after another: many at once run out of threads.
set_option Elab.async false

/-! ## What moves do to the fields of the invariants -/

/-- What a change of muster state does to what the invariants speak of, but for the muster state itself. -/
theorem changeMuster_effects (s : State) (m : MusterUnit) (o : Origin) :
    (∃ ns : List Notice, (s.changeMuster m o).notice = ns.foldl NoticeUnit.push s.notice) ∧
    (s.changeMuster m o).muster.state = m.state ∧
    (s.changeMuster m o).screen.screens.length = s.screen.screens.length ∧
    (s.changeMuster m o).route.work = s.arrowScreens.foldl appendWork s.route.work ∧
    ((s.changeMuster m o).cmd.maint =
      if s.muster.state = .normal ∧ isAlert m.state = true then none else s.cmd.maint) := by
  have h := changeMuster_eq s m o
  obtain ⟨⟨muster, -, screens, -, route, -, -, -, maint, -⟩, -⟩ := changeMuster_changed s m o
  extract_lets closes u closure at h
  let changed : Notice := { kind := .musterState, urgent := true, subject := 0, detail := musterDetail m.state o
                            epoch := m.epoch, stamp := s.time.uptime }
  refine ⟨⟨changed :: arrange (Config.noticeOrder s.free) closure
    (coverageReport (isAlert m.state && s.isReady) u) (cabinNotices s u), ?_⟩, ?_, ?_, ?_, maint⟩
  · rw [h]; rfl
  · rw [muster]
  · rw [screens, List.length_map]
  · rw [route]

/-- The Programme engine when entry `i` has taken the bytes `b` and has been evaluated (R117 to R119). -/
def ProgUnit.evaluated (p : ProgUnit) (i : Nat) (b : Vector Byte 32) : ProgUnit :=
  { p with
    shadow := p.shadow.set i { bytes := b, status := statusOf b }
    order := relist i b (statusOf b) p.order
    rejected := if (statusOf b).isRejected then satInc p.rejected else p.rejected }

theorem State.entryTaken_of_some {s : State} {i : Nat} {e : ShadowEntry} (f : ShadowEntry → Vector Byte 32)
    (h : s.prog.shadow[i]? = some e) : s.entryTaken i f =
      State.handAll { s with prog := s.prog.evaluated i (f e) } (s.rejectNotices i e.status (statusOf (f e))) := by
  have modified : (s.prog.shadow.modify i fun e => { e with bytes := f e }) =
      s.prog.shadow.set i { e with bytes := f e } := by simp [List.modify_eq_set_getElem?, h]
  have found : (s.prog.shadow.set i { e with bytes := f e })[i]? = some { e with bytes := f e } := by
    simp [List.getElem?_set_self', h]
  unfold State.entryTaken State.evalEntry
  simp only [modified, found, List.set_set]
  rfl

theorem State.entryTaken_of_none {s : State} {i : Nat} (f : ShadowEntry → Vector Byte 32)
    (h : s.prog.shadow[i]? = none) : s.entryTaken i f = s := by
  unfold State.entryTaken State.evalEntry
  simp [h, List.modify_eq_set_getElem?]

/-- An entry that is taken hands notices to the Notice writer and changes nothing else of it. -/
theorem State.entryTaken_notice (s : State) (i : Nat) (f : ShadowEntry → Vector Byte 32) :
    ∃ ns : List Notice, (s.entryTaken i f).notice = ns.foldl NoticeUnit.push s.notice := by
  cases h : s.prog.shadow[i]? with
  | none => exact ⟨[], by rw [s.entryTaken_of_none f h]; rfl⟩
  | some e => exact ⟨_, by rw [s.entryTaken_of_some f h]; rfl⟩

/-- What holds of the state when start-up has given every block its contents holds at the end of start-up, if a change
of muster state keeps it. -/
theorem startUpEnds_keeps {p : State → Prop} {s : State}
    (ready : ∀ c, s.loader.checked = some c → p (s.startReady c)) (degraded : p s.startDegraded)
    (change : ∀ {u : State} (m : MusterUnit) (o : Origin), p u → p (u.changeMuster m o)) (hs : p s) :
    p s.startUpEnds := by
  have decided {u : State} (h : p u) : p u.decideMuster := by
    unfold State.decideMuster
    split
    · exact change _ _ h
    · exact h
  unfold State.startUpEnds
  split
  · split
    next c checked => exact decided (ready c checked)
    · exact decided degraded
  · exact hs

/-! ## The queues (R3, R11, R153) -/

theorem Move.queuesBounded {s t : State} (m : Move True s t) (hs : s.QueuesBounded) : t.QueuesBounded := by
  have change {s : State} (m : MusterUnit) (o : Origin) (hs : s.QueuesBounded) :
      (s.changeMuster m o).QueuesBounded := by
    obtain ⟨queue, pwq, iwq⟩ := hs
    obtain ⟨⟨ns, notice⟩, -⟩ := changeMuster_effects s m o
    exact ⟨notice ▸ foldl_push_length ns queue, by simpa using pwq, by simpa using iwq⟩
  obtain ⟨queue, pwq, iwq⟩ := id hs
  cases m with
  | quiet q =>
    unfold State.QueuesBounded
    rw [q.queue, q.pwq, q.iwq]
    exact hs
  | handed ns => exact ⟨foldl_push_length ns queue, pwq, iwq⟩
  | taken n rest h => exact ⟨by rw [h] at queue; exact Nat.le_of_succ_le queue, pwq, iwq⟩
  | headTested =>
    refine ⟨?_, pwq, iwq⟩
    simpa [NoticeUnit.testHead, NoticeUnit.evalIrq, apply_ite NoticeUnit.queue] using queue
  | placed e room =>
    refine ⟨queue, pwq, ?_⟩
    unfold Path.iwqFree at room
    simp only [State.placeIwq, List.length_append, List.length_singleton]
    omega
  | accepted l _ room =>
    refine ⟨queue, ?_, iwq⟩
    unfold Path.pwqFree at room
    simp only [State.enqueueWrite, List.length_append, List.length_map]
    omega
  | left p shorter iwqShorter => exact ⟨queue, shorter.length_le.trans pwq, iwqShorter.trans iwq⟩
  | entryTaken i f =>
    obtain ⟨ns, notice⟩ := s.entryTaken_notice i f
    exact ⟨notice ▸ foldl_push_length ns queue, by simpa [State.entryTaken] using pwq,
      by simpa [State.entryTaken] using iwq⟩
  | musterChanged m o => exact change m o hs
  | startUp =>
    have started {u : State} (h : u.notice.queue = [] ∧ u.path = {}) : u.QueuesBounded := by
      simp [State.QueuesBounded, h.1, h.2]
    exact startUpEnds_keeps (fun c _ => started ⟨rfl, rfl⟩) (started ⟨rfl, rfl⟩) change hs
  | ringMoved | appended | workTaken | stationsSet | windowOpened | windowShut | levelTaken | loaded => exact hs

/-- Settles O4, by the moves of which every step is made. -/
theorem queuesBoundedKept : Obligations.QueuesBoundedKept := fun _ _ =>
  step_keeps (fun _ => by simp [State.QueuesBounded, State.doReset, State.reset]) Move.queuesBounded

/-! ## The maintenance window (R25 to R28) -/

theorem Move.windowGuarded {s t : State} (m : Move True s t) (hs : s.WindowGuarded) : t.WindowGuarded := by
  cases m with
  | quiet q =>
    unfold State.WindowGuarded State.isReady at *
    rwa [q.maint, q.phase, q.state, q.maintDeb]
  | entryTaken i f => simpa [State.WindowGuarded, State.entryTaken, State.isReady] using hs
  | musterChanged m o edge =>
    intro isOpen
    obtain ⟨-, -, -, -, maint⟩ := changeMuster_effects s m o
    rw [maint] at isOpen
    split at isOpen
    case isTrue => cases isOpen
    case isFalse kept =>
      obtain ⟨-, normal, -⟩ := hs isOpen
      rw [normal] at edge
      generalize m.state = after at edge kept
      cases edge <;> exact absurd ⟨normal, rfl⟩ kept
  | windowOpened n ready normal asserted => exact fun _ => ⟨ready, normal, asserted⟩
  | windowShut => exact fun h => absurd h (by simp)
  | levelTaken ls _ maintLevel =>
    intro isOpen
    obtain ⟨ready, normal, asserted⟩ := hs isOpen
    refine ⟨ready, normal, ?_⟩
    by_contra low
    obtain fell | shut := maintLevel (by simp [State.started, of_decide_eq_true ready]) (by simpa using low)
    · rw [fell] at asserted; cases asserted
    · have shut : s.cmd.maint.isSome = false := by rw [shut]; rfl
      exact absurd (shut.symm.trans isOpen) Bool.false_ne_true
  | loaded l off =>
    intro isOpen
    obtain ⟨ready, -⟩ := hs isOpen
    simp [State.started, of_decide_eq_true ready] at off
  | startUp =>
    have shut {u : State} (h : u.cmd.maint = none) : u.WindowGuarded := by simp [State.WindowGuarded, h]
    have started {u : State} (h : u.cmd.maint = none) : u.decideMuster.WindowGuarded := by
      unfold State.decideMuster
      split
      · refine shut ?_
        rw [(changeMuster_effects _ _ _).2.2.2.2, h, ite_self]
      · exact shut h
    unfold State.startUpEnds
    split
    · split
      · exact started rfl
      · exact started rfl
    · exact hs
  | handed | taken | headTested | ringMoved | placed | accepted | left | appended | workTaken | stationsSet => exact hs

/-! ## The MUSTER level (R60, R61) -/

/-- The end of start-up decides the muster state by the MUSTER level (R60). -/
theorem decideMuster_lineObeyed {u : State} (h : u.muster.state = .normal) : u.decideMuster.LineObeyed := by
  unfold State.decideMuster
  split
  · obtain ⟨-, state, -⟩ := changeMuster_effects u (u.muster.enterMuster .line) .line
    intro _
    rw [state]
    exact ⟨by simp [MusterUnit.enterMuster], fun _ => rfl⟩
  next low => exact fun _ => ⟨by simp [h], fun deb => absurd deb low⟩

theorem Move.lineObeyed {s t : State} (m : Move True s t) (hs : s.LineObeyed) : t.LineObeyed := by
  cases m with
  | quiet q =>
    unfold State.LineObeyed State.started at *
    rwa [q.phase, q.state, q.musterDeb]
  | entryTaken i f => simpa [State.LineObeyed, State.entryTaken, State.started] using hs
  | musterChanged m o edge =>
    intro started
    obtain ⟨-, obeyed⟩ := hs (by simpa [State.started] using started)
    obtain ⟨-, state, -⟩ := changeMuster_effects s m o
    rw [state, (State.changeMuster_frame s m o).2.2.2.2.2.2.1]
    generalize before : s.muster.state = a, m.state = b at edge obeyed
    cases edge with
    | order => exact ⟨by simp, fun _ => rfl⟩
    | drill | drillEnd | standdownEnd => exact ⟨by simp, fun deb => absurd (obeyed deb) (by simp)⟩
    | allClear _ low => exact ⟨by simp, fun deb => absurd (low.symm.trans deb) Bool.false_ne_true⟩
  | levelTaken ls musterLevel _ =>
    intro started
    obtain ⟨decided, obeyed⟩ := hs started
    refine ⟨decided, fun deb => ?_⟩
    obtain asserted | already | undecided := musterLevel started deb
    · exact obeyed asserted
    · exact already
    · exact absurd undecided decided
  | loaded l _ phase =>
    intro started
    obtain load | check := phase
    · simp [State.started, load] at started
    · simp [State.started, check] at started
  | startUp =>
    unfold State.startUpEnds
    split
    · split
      · exact decideMuster_lineObeyed rfl
      · exact decideMuster_lineObeyed rfl
    · exact hs
  | handed | taken | headTested | ringMoved | placed | accepted | left | appended | workTaken | stationsSet
  | windowOpened | windowShut => exact hs

/-- Settles O5, by the moves of which every step is made. -/
theorem musterGuardsKept : Obligations.MusterGuardsKept :=
  ⟨fun _ _ => step_keeps (fun _ => by simp [State.WindowGuarded, State.doReset, State.reset]) Move.windowGuarded,
   fun _ _ => step_keeps (fun _ => by simp [State.LineObeyed, State.doReset, State.reset, State.started]) Move.lineObeyed⟩

/-! ## The work list (R97) -/

theorem Move.workSound {s t : State} (m : Move True s t) (hs : s.WorkSound) : t.WorkSound := by
  have change {s : State} (m : MusterUnit) (o : Origin) (hs : s.WorkSound) : (s.changeMuster m o).WorkSound := by
    obtain ⟨⟨screens, checked⟩, nodup, inside⟩ := hs
    obtain ⟨-, -, length, work, -⟩ := changeMuster_effects s m o
    unfold State.WorkSound State.ScreensBounded
    rw [length, work, (State.changeMuster_frame s m o).2.2.1]
    exact ⟨⟨screens, checked⟩, nodup_foldl_appendWork _ nodup, fun i hi =>
      (mem_foldl_appendWork.1 hi).elim (inside i) mem_arrowScreens⟩
  obtain ⟨⟨screens, checked⟩, nodup, inside⟩ := id hs
  cases m with
  | quiet q =>
    unfold State.WorkSound State.ScreensBounded
    rw [q.screens, q.checked, q.work]
    exact hs
  | appended l present =>
    exact ⟨⟨screens, checked⟩, nodup_foldl_appendWork _ nodup, fun i hi =>
      (mem_foldl_appendWork.1 hi).elim (inside i) (present i)⟩
  | workTaken i rest work =>
    rw [work] at nodup inside
    exact ⟨⟨screens, checked⟩, nodup.of_cons, fun j hj => inside j (.tail i hj)⟩
  | entryTaken i f => simpa [State.WorkSound, State.entryTaken, State.ScreensBounded] using hs
  | musterChanged m o => exact change m o hs
  | loaded l _ _ bounded =>
    refine ⟨⟨screens, fun c hc => ?_⟩, nodup, inside⟩
    exact (bounded c hc).elim (checked c) And.left
  | startUp =>
    refine startUpEnds_keeps (fun c hc => ?_) ⟨⟨Nat.zero_le _, checked⟩, .nil, by simp [State.startDegraded]⟩ change hs
    have length : (s.startReady c).screen.screens.length ≤ 24 :=
      (List.length_map startScreen).trans_le (checked c hc)
    refine ⟨⟨length, checked⟩, nodup_foldl_appendWork _ .nil, fun i hi => ?_⟩
    exact (mem_foldl_appendWork.1 hi).elim (by simp) mem_arrowScreens
  | handed | taken | headTested | ringMoved | placed | accepted | left | stationsSet | windowOpened | windowShut
  | levelTaken => exact hs

/-- Settles O7, by the moves of which every step is made. -/
theorem workSoundKept : Obligations.WorkSoundKept := fun _ _ =>
  step_keeps (fun _ => by simp [State.WorkSound, State.ScreensBounded, State.doReset, State.reset]) Move.workSound

/-! ## The ring (R152 to R156) -/

/-- The ring part of `State.RingSound`. -/
def NoticeUnit.RingSound (u : NoticeUnit) : Prop :=
  u.ring.Sound ∧ u.head < u.ring.count ∧ u.tail < u.ring.count ∧
  (∀ j, u.urgent = some j → u.ahead j < u.unread) ∧ u.irq = u.irqCondition

theorem State.ringSound_iff {s : State} :
    s.RingSound ↔ s.notice.RingSound ∧ ∀ c, s.loader.checked = some c → c.ring.Sound := by
  unfold State.RingSound NoticeUnit.RingSound
  tauto

theorem NoticeUnit.ahead_of_lt (u : NoticeUnit) {j : Nat} (head : u.head < u.ring.count) (h : j < u.ring.count) :
    u.ahead j = if u.head ≤ j then j - u.head else j + u.ring.count - u.head := by
  unfold NoticeUnit.ahead
  split
  · rw [show j + u.ring.count - u.head = (j - u.head) + u.ring.count by omega, Nat.add_mod_right]
    exact Nat.mod_eq_of_lt (by omega)
  · exact Nat.mod_eq_of_lt (by omega)

theorem NoticeUnit.nextTail_lt {u : NoticeUnit} (h : u.tail < u.ring.count) : u.nextTail < u.ring.count := by
  unfold NoticeUnit.nextTail
  split <;> omega

/-- A notice that the writer has taken is one more unread slot (R154). -/
theorem NoticeUnit.ahead_nextTail {u : NoticeUnit} (head : u.head < u.ring.count) (tail : u.tail < u.ring.count)
    (space : u.unread < u.ring.count - 1) : u.ahead u.nextTail = u.unread + 1 := by
  unfold NoticeUnit.unread at *
  rw [u.ahead_of_lt head (NoticeUnit.nextTail_lt tail)]
  rw [u.ahead_of_lt head tail] at space ⊢
  unfold NoticeUnit.nextTail at *
  split at space <;> repeat' split
  all_goals omega

theorem NoticeUnit.taken_ringSound {u : NoticeUnit} (n : Notice) (rest : List Notice) (h : u.RingSound)
    (space : u.unread < u.ring.count - 1) : (u.taken n rest).RingSound := by
  obtain ⟨ring, head, tail, urgent, -⟩ := h
  have unread : (u.taken n rest).unread = u.unread + 1 := NoticeUnit.ahead_nextTail head tail space
  refine ⟨ring, head, NoticeUnit.nextTail_lt tail, fun j hj => ?_, rfl⟩
  rw [unread]
  change u.ahead j < u.unread + 1
  obtain rfl | old : j = u.tail ∨ u.urgent = some j := by
    simp only [NoticeUnit.taken, NoticeUnit.evalIrq] at hj
    split at hj
    · exact .inl (Option.some_inj.1 hj).symm
    · exact .inr hj
  · exact Nat.lt_succ_self _
  · exact Nat.lt_succ_of_lt (urgent j old)

theorem NoticeUnit.testHead_ringSound {u : NoticeUnit} (h : u.RingSound) : u.testHead.RingSound := by
  obtain ⟨ring, head, tail, urgent, irq⟩ := h
  unfold NoticeUnit.testHead
  split
  next valid =>
    obtain ⟨inside, -⟩ : u.descHead < u.ring.count ∧ u.ahead u.descHead ≤ u.unread := by
      simpa [NoticeUnit.headValid] using valid
    refine ⟨ring, inside, tail, fun j hj => ?_, rfl⟩
    simp only [NoticeUnit.evalIrq, NoticeUnit.keepUrgent] at hj
    split at hj
    · split at hj
      next kept => cases hj; exact kept
      · cases hj
    · cases hj
  · exact ⟨ring, head, tail, urgent, irq⟩

/-- An empty ring that is in range is sound where IRQ is deasserted (R159). -/
theorem NoticeUnit.ringSound_of_empty {u : NoticeUnit} (ring : u.ring.Sound) (head : u.head = 0) (tail : u.tail = 0)
    (urgent : u.urgent = none) (irq : u.irq = u.irqCondition) : u.RingSound := by
  obtain ⟨count, -⟩ := id ring
  exact ⟨ring, by omega, by omega, by simp [urgent], irq⟩

theorem Move.ringSound {s t : State} (m : Move True s t) (hs : s.RingSound) : t.RingSound := by
  rw [State.ringSound_iff] at hs ⊢
  have pushed {u : NoticeUnit} (ns : List Notice) (h : u.RingSound) : (ns.foldl NoticeUnit.push u).RingSound := by
    rw [foldl_push_frame]
    exact h
  have change {s : State} (m : MusterUnit) (o : Origin)
      (hs : s.notice.RingSound ∧ ∀ c, s.loader.checked = some c → c.ring.Sound) :
      (s.changeMuster m o).notice.RingSound ∧ ∀ c, (s.changeMuster m o).loader.checked = some c → c.ring.Sound := by
    obtain ⟨⟨ns, notice⟩, -⟩ := changeMuster_effects s m o
    exact ⟨notice ▸ pushed ns hs.1, by simpa using hs.2⟩
  obtain ⟨ring, checked⟩ := id hs
  cases m with
  | quiet q =>
    unfold NoticeUnit.RingSound NoticeUnit.irqCondition NoticeUnit.unread NoticeUnit.ahead
    rw [q.ring, q.head, q.tail, q.urgent, q.irq, q.checked]
    exact hs
  | handed ns => exact ⟨pushed ns ring, checked⟩
  | taken n rest _ space => exact ⟨NoticeUnit.taken_ringSound n rest ring space, checked⟩
  | headTested => exact ⟨NoticeUnit.testHead_ringSound ring, checked⟩
  | ringMoved r sound => exact ⟨NoticeUnit.ringSound_of_empty sound rfl rfl rfl rfl, checked⟩
  | entryTaken i f =>
    obtain ⟨ns, notice⟩ := s.entryTaken_notice i f
    exact ⟨notice ▸ pushed ns ring, by simpa [State.entryTaken] using checked⟩
  | musterChanged m o => exact change m o hs
  | loaded l _ _ bounded => exact ⟨ring, fun c hc => (bounded c hc).elim (checked c) And.right⟩
  | startUp =>
    have started (r : RingConf) (sound : r.Sound) : (startNotice r).RingSound := by
      refine NoticeUnit.ringSound_of_empty sound rfl rfl rfl ?_
      obtain ⟨-, -, mark, -⟩ := sound
      have unread : (startNotice r).unread = 0 := by simp [NoticeUnit.unread, NoticeUnit.ahead, startNotice]
      simp only [NoticeUnit.irqCondition, unread]
      simp [startNotice]
      omega
    exact startUpEnds_keeps
      (p := fun u => u.notice.RingSound ∧ ∀ c, u.loader.checked = some c → c.ring.Sound)
      (fun c hc => ⟨started c.ring (checked c hc), checked⟩)
      ⟨started _ (by simp [RingConf.Sound, defaultRing]), checked⟩ change hs
  | placed | accepted | left | appended | workTaken | stationsSet | windowOpened | windowShut | levelTaken => exact hs

/-- Settles O8, by the moves of which every step is made; after RESET it stands on the ring of 16 entries and watermark
1 that the model gives the state of reset (log 13). -/
theorem ringSoundKept : Obligations.RingSoundKept := fun _ _ =>
  step_keeps (fun _ => by
    rw [State.ringSound_iff]
    have ring : State.reset.notice.ring.Sound := by simp [RingConf.Sound, State.reset]
    have irq : State.reset.notice.irq = State.reset.notice.irqCondition := by decide
    exact ⟨NoticeUnit.ringSound_of_empty ring rfl rfl rfl irq, by simp [State.doReset, State.reset]⟩)
    Move.ringSound

/-! ## The station table and the programme list (R73, R74, R119) -/

theorem Move.stationsSound {s t : State} (m : Move True s t) (hs : s.StationsSound) : t.StationsSound := by
  have change {s : State} (m : MusterUnit) (o : Origin) (hs : s.StationsSound) :
      (s.changeMuster m o).StationsSound := by simpa [State.StationsSound] using hs
  cases m with
  | quiet q =>
    unfold State.StationsSound
    rwa [q.table]
  | stationsSet entries =>
    rintro t ⟨⟩
    rfl
  | entryTaken i f => simpa [State.StationsSound, State.entryTaken] using hs
  | musterChanged m o => exact change m o hs
  | startUp =>
    refine startUpEnds_keeps (fun c _ => ?_) (fun t ht => by cases ht) change hs
    rintro t ⟨⟩
    rfl
  | handed | taken | headTested | ringMoved | placed | accepted | left | appended | workTaken | windowOpened | windowShut
  | levelTaken | loaded => exact hs

/-- A list entry has the fields that the bytes `b` give (R119). -/
def ListEntry.Reads (x : ListEntry) (b : Vector Byte 32) : Prop :=
  x.start = b[2].toNat * 1440 + (b[4].toNat + 256 * b[5].toNat) ∧
  x.finish = x.start + (b[6].toNat + 256 * b[7].toNat) ∧
  x.category = b[1].toNat ∧ x.deck = b[8].toNat ∧ x.venue = b[3].toNat ∧ x.lead = b[9].toNat ∧
  x.featured = b[0].getLsbD 1

theorem vecByte_of_lt {n : Nat} (v : Vector Byte n) {i : Nat} (h : i < n) : vecByte v i = v[i] := by
  simp [vecByte, h]

theorem listEntryOf_reads (i : Nat) (b : Vector Byte 32) : (listEntryOf i b).Reads b := by
  simp [ListEntry.Reads, listEntryOf, minuteNumber, entryStart, entryDuration, field16_toNat, number2, vecByte_of_lt]

/-- The list `order` is that of the shadow, as `State.ListSound` says. -/
def ListOf (shadow : List ShadowEntry) (order : List ListEntry) : Prop :=
  order.Pairwise (fun a b => listedBefore a b = true) ∧ (order.map ListEntry.index).Nodup ∧
  (∀ i : Nat, i ∈ order.map ListEntry.index ↔ ∃ e, shadow[i]? = some e ∧ e.status = .listed) ∧
  ∀ x ∈ order, ∃ e, shadow[x.index]? = some e ∧ x.Reads e.bytes

theorem State.listSound_iff {s : State} : s.ListSound ↔ ListOf s.prog.shadow s.prog.order := .rfl

theorem insertListed_perm (e : ListEntry) (l : List ListEntry) : (insertListed e l).Perm (e :: l) := by
  induction l with
  | nil => exact .refl _
  | cons x l ih =>
    unfold insertListed
    split
    · exact .refl _
    · exact (ih.cons x).trans (.swap e x l)

theorem mem_relist {i : Nat} {b : Vector Byte 32} {l : List ListEntry} {x : ListEntry} :
    x ∈ relist i b (statusOf b) l ↔ (statusOf b = .listed ∧ x = listEntryOf i b) ∨ (x ∈ l ∧ x.index ≠ i) := by
  unfold relist
  split
  next h => simp [h, mem_insertListed, removeListed]
  next h => simp [h, removeListed]
  next h => simp [h, removeListed]

/-- Without the entries of index `i` the list stays ordered and without repeats (R117). -/
theorem removeListed_ordered (i : Nat) {l : List ListEntry} (h : l.Pairwise fun a b => listedBefore a b = true)
    (nodup : (l.map ListEntry.index).Nodup) :
    (removeListed i l).Pairwise (fun a b => listedBefore a b = true) ∧ ((removeListed i l).map ListEntry.index).Nodup :=
  ⟨h.sublist List.filter_sublist, nodup.sublist (List.filter_sublist.map _)⟩

theorem relist_ordered (i : Nat) (b : Vector Byte 32) {l : List ListEntry}
    (h : l.Pairwise fun a b => listedBefore a b = true) (nodup : (l.map ListEntry.index).Nodup) :
    (relist i b (statusOf b) l).Pairwise (fun a b => listedBefore a b = true) ∧
    ((relist i b (statusOf b) l).map ListEntry.index).Nodup := by
  obtain ⟨ordered, once⟩ := removeListed_ordered i h nodup
  have absent : ∀ x ∈ removeListed i l, x.index ≠ (listEntryOf i b).index := by simp [removeListed, listEntryOf]
  unfold relist
  split
  · refine ⟨insertListed_ordered ordered absent, ?_⟩
    rw [((insertListed_perm _ _).map _).nodup_iff, List.map_cons, List.nodup_cons]
    refine ⟨fun found => ?_, once⟩
    obtain ⟨x, hx, index⟩ := List.mem_map.1 found
    exact absent x hx index
  · exact ⟨ordered, once⟩
  · exact ⟨ordered, once⟩

/-- An evaluation keeps the list that of the shadow (R117 to R119). -/
theorem ListOf.evaluated {p : ProgUnit} (h : ListOf p.shadow p.order) {i : Nat} (hi : i < p.shadow.length)
    (b : Vector Byte 32) : ListOf (p.evaluated i b).shadow (p.evaluated i b).order := by
  obtain ⟨ordered, nodup, members, reads⟩ := h
  obtain ⟨ordered, nodup⟩ := relist_ordered i b ordered nodup
  have own : (p.shadow.set i { bytes := b, status := statusOf b })[i]? = some { bytes := b, status := statusOf b } :=
    List.getElem?_set_self hi
  have other {j : Nat} (hj : j ≠ i) : (p.shadow.set i { bytes := b, status := statusOf b })[j]? = p.shadow[j]? :=
    List.getElem?_set_ne hj.symm
  refine ⟨ordered, nodup, fun j => ?_, fun x hx => ?_⟩
  · simp only [ProgUnit.evaluated, List.mem_map, mem_relist]
    by_cases hj : j = i
    · subst hj
      simp only [own, Option.some.injEq, exists_eq_left']
      constructor
      · rintro ⟨x, ⟨listed, -⟩ | ⟨-, ne⟩, index⟩
        · exact listed
        · exact absurd index ne
      · exact fun listed => ⟨_, .inl ⟨listed, rfl⟩, rfl⟩
    · rw [other hj, ← members j, List.mem_map]
      constructor
      · rintro ⟨x, ⟨-, rfl⟩ | ⟨hx, -⟩, index⟩
        · exact absurd index.symm hj
        · exact ⟨x, hx, index⟩
      · rintro ⟨x, hx, rfl⟩
        exact ⟨x, .inr ⟨hx, hj⟩, rfl⟩
  · obtain ⟨-, rfl⟩ | ⟨hx, ne⟩ := mem_relist.1 hx
    · exact ⟨_, own, listEntryOf_reads i b⟩
    · obtain ⟨e, he, fields⟩ := reads x hx
      exact ⟨e, (other ne).trans he, fields⟩

/-- Before anything has been evaluated the list is empty (R119, R164). -/
theorem listOf_replicate (n : Nat) : ListOf (List.replicate n {}) [] := by
  refine ⟨.nil, .nil, fun i => ?_, by simp⟩
  simp only [List.map_nil, List.not_mem_nil, false_iff]
  rintro ⟨e, found, listed⟩
  rw [List.eq_of_mem_replicate (List.mem_of_getElem? found)] at listed
  cases listed

theorem Move.listSound {s t : State} (m : Move True s t) (hs : s.ListSound) : t.ListSound := by
  rw [State.listSound_iff] at hs ⊢
  have change {s : State} (m : MusterUnit) (o : Origin) (hs : ListOf s.prog.shadow s.prog.order) :
      ListOf (s.changeMuster m o).prog.shadow (s.changeMuster m o).prog.order := by simpa using hs
  cases m with
  | quiet q => rwa [q.shadow, q.order]
  | entryTaken i f =>
    cases h : s.prog.shadow[i]? with
    | none => rwa [s.entryTaken_of_none f h]
    | some e =>
      rw [s.entryTaken_of_some f h]
      exact hs.evaluated (List.getElem?_eq_some_iff.1 h).1 _
  | musterChanged m o => exact change m o hs
  | startUp =>
    refine startUpEnds_keeps (p := fun u => ListOf u.prog.shadow u.prog.order) (fun c _ => ?_) ?_ change hs
    · exact listOf_replicate 256
    · exact listOf_replicate 0
  | handed | taken | headTested | ringMoved | placed | accepted | left | appended | workTaken | stationsSet
  | windowOpened | windowShut | levelTaken | loaded => exact hs

/-- Settles O10, by the moves of which every step is made. -/
theorem tablesSoundKept : Obligations.TablesSoundKept :=
  ⟨fun _ _ => step_keeps (fun _ => by simp [State.StationsSound, State.doReset, State.reset]) Move.stationsSound,
   fun _ _ => step_keeps (fun _ => State.listSound_iff.2 (listOf_replicate 0)) Move.listSound⟩

end Sys2Proof.Machine

/-! SUPPORT. A command of the slot reads neither the queues nor the copy but for its arguments: it makes its changes,
and then places or holds its result, or starts a rescan's read (R147 to R149). -/

namespace Sys2Proof.Machine

open Sys2Proof

set_option Elab.async false

/-! ## How a command ends (R127, R148, R149) -/

/-- How a command of the slot ends: with a result, or with the first read of a rescan. -/
inductive CommandEnd where
  | result (r : CmdResult)
  | scan (w : Window) (table : ScanTable)

/-- The state when a command has ended so. -/
def State.endWith (s : State) : CommandEnd → State
  | .result r => s.endCommand r
  | .scan w table => s.startScanRead w table 0 0

/-- The state with another memory path and another copy of the slot. -/
def State.withSlot (s : State) (p : Path) (copy : Vector Byte 28) : State :=
  { s with path := p, cmd := { s.cmd with copy := copy } }

@[simp] theorem State.withSlot_self (s : State) : s.withSlot s.path s.cmd.copy = s := rfl

/-- What a command's changes leave alone, before its end: the decoder and the slot, but for the maintenance window. -/
def State.SlotKept (s u : State) : Prop := u.cfg = s.cfg ∧ u.cmd = { s.cmd with maint := u.cmd.maint }

theorem State.SlotKept.refl (s : State) : s.SlotKept s := ⟨rfl, rfl⟩

/-- A command, started in `s`, changes the state and ends in a way that depends neither on the path nor on the
copy. -/
def State.Ends (s : State) (f : State → State) : Prop :=
  ∃ (u : State) (e : CommandEnd), s.SlotKept u ∧ ∀ p copy, f (s.withSlot p copy) = (u.withSlot p copy).endWith e

theorem State.Ends.result {s : State} {f : State → State} (u : State) (r : CmdResult) (kept : s.SlotKept u)
    (h : ∀ p copy, f (s.withSlot p copy) = (u.withSlot p copy).endCommand r) : s.Ends f := ⟨u, .result r, kept, h⟩

theorem State.ends_endCommand (s : State) (r : CmdResult) : s.Ends fun t => t.endCommand r :=
  ⟨s, .result r, .refl s, fun _ _ => rfl⟩

theorem State.ends_endMuster (s : State) (o : CmdOutcome) : s.Ends fun t => t.endMuster o :=
  ⟨s, .result { outcome := o, detail := s.musterWord }, .refl s, fun _ _ => rfl⟩

/-! ## What the path and the copy are no matter of -/

theorem State.changeMuster_withSlot (s : State) (m : MusterUnit) (o : Origin) (p : Path) (copy : Vector Byte 28) :
    (s.withSlot p copy).changeMuster m o = (s.changeMuster m o).withSlot p copy := by
  rw [changeMuster_eq, changeMuster_eq]
  rfl

theorem State.orderMuster_withSlot (s : State) (c : MusterCause) (p : Path) (copy : Vector Byte 28) :
    (s.withSlot p copy).orderMuster c = (s.orderMuster c).withSlot p copy := by
  unfold State.orderMuster
  rw [show (s.withSlot p copy).muster.state = s.muster.state from rfl]
  cases s.muster.state with
  | muster | undecided => rfl
  | normal | drill | standdown => exact s.changeMuster_withSlot _ _ p copy

theorem State.stationCauses_withSlot (s : State) (l : List StationIx) (p : Path) (copy : Vector Byte 28) :
    (s.withSlot p copy).stationCauses l = (s.stationCauses l).withSlot p copy := by
  unfold State.stationCauses
  split
  · rfl
  · rfl

theorem State.computeFeatured_withSlot (s : State) (i : Nat) (p : Path) (copy : Vector Byte 28) :
    (s.withSlot p copy).computeFeatured i = (s.computeFeatured i).withSlot p copy := by
  unfold State.computeFeatured
  rw [show (s.withSlot p copy).screen = s.screen from rfl]
  cases s.screen.screens[i]? with
  | none => rfl
  | some sc => rfl

/-! ## The commands -/

theorem State.changeMuster_slotKept (s : State) (m : MusterUnit) (o : Origin) : s.SlotKept (s.changeMuster m o) := by
  obtain ⟨-, -, -, -, cmd⟩ := changeMuster_changed s m o
  exact ⟨by simp, cmd⟩

theorem State.orderMuster_slotKept (s : State) (c : MusterCause) : s.SlotKept (s.orderMuster c) := by
  unfold State.orderMuster
  split
  · exact s.changeMuster_slotKept _ _
  · exact s.changeMuster_slotKept _ _
  · exact s.changeMuster_slotKept _ _
  · exact .refl s
  · exact .refl s

theorem State.stationCauses_slotKept (s : State) (l : List StationIx) : s.SlotKept (s.stationCauses l) := by
  unfold State.stationCauses
  split
  · exact .refl s
  · exact .refl s

theorem State.computeFeatured_slotKept (s : State) (i : Nat) : s.SlotKept (s.computeFeatured i) := by
  unfold State.computeFeatured
  split
  · exact .refl s
  · exact .refl s

theorem State.changeMuster_ends (s : State) (m : MusterUnit → MusterUnit) (o : Origin) (c : CmdOutcome) :
    s.Ends fun t => (t.changeMuster (m t.muster) o).endMuster c :=
  ⟨s.changeMuster (m s.muster) o, .result { outcome := c, detail := (s.changeMuster (m s.muster) o).musterWord },
    s.changeMuster_slotKept _ _, fun p copy => congrArg (fun t : State => t.endMuster c) (s.changeMuster_withSlot (m s.muster) o p copy)⟩

/-- A test that reads neither the path nor the copy. -/
theorem State.Ends.ite {s : State} {c : State → Prop} [∀ t, Decidable (c t)] {f g : State → State}
    (hc : ∀ p copy, c (s.withSlot p copy) ↔ c s) (hf : c s → s.Ends f) (hg : ¬ c s → s.Ends g) :
    s.Ends fun t => if c t then f t else g t := by
  by_cases h : c s
  · obtain ⟨u, e, kept, he⟩ := hf h
    exact ⟨u, e, kept, fun p copy => (if_pos ((hc p copy).2 h)).trans (he p copy)⟩
  · obtain ⟨u, e, kept, he⟩ := hg h
    exact ⟨u, e, kept, fun p copy => (if_neg (mt (hc p copy).1 h)).trans (he p copy)⟩

theorem State.cmdDrillStart_ends (s : State) : s.Ends State.cmdDrillStart :=
  .ite (c := fun t => t.muster.state = .normal) (fun _ _ => .rfl)
    (fun _ => s.changeMuster_ends (fun m => { m with state := .drill, epoch := m.epoch + 1 }) .command .done)
    fun _ => s.ends_endMuster _

theorem State.cmdDrillEnd_ends (s : State) : s.Ends State.cmdDrillEnd :=
  .ite (c := fun t => t.muster.state = .drill) (fun _ _ => .rfl)
    (fun _ => s.changeMuster_ends (fun m => { m with state := .normal }) .command .done)
    fun _ => s.ends_endMuster _

theorem State.cmdMusterOrder_ends (s : State) : s.Ends State.cmdMusterOrder :=
  ⟨s.orderMuster .command, .result { outcome := .done, detail := (s.orderMuster .command).musterWord },
    s.orderMuster_slotKept _, fun p copy => by
    rw [State.cmdMusterOrder, s.orderMuster_withSlot .command p copy]
    rfl⟩

theorem State.cmdAllClear_ends (s : State) : s.Ends State.cmdAllClear :=
  .ite (c := fun t => t.muster.state ≠ .muster) (fun _ _ => .rfl) (fun _ => s.ends_endMuster _) fun _ =>
    .ite (c := fun t => t.lines.muster.deb = true) (fun _ _ => .rfl) (fun _ => s.ends_endMuster _)
      fun _ => s.changeMuster_ends (fun m => { m with state := .standdown, standdown := some 0 }) .command .done

theorem State.cmdStanddownEnd_ends (s : State) : s.Ends State.cmdStanddownEnd :=
  .ite (c := fun t => t.muster.state = .standdown) (fun _ _ => .rfl)
    (fun _ => s.changeMuster_ends (fun m => { m with state := .normal, standdown := none }) .command .done)
    fun _ => s.ends_endMuster _

theorem State.stationDone_ends (s : State) (before : StationTable) (entries : Vector Station 12) :
    s.Ends fun t => t.stationDone before entries := by
  let changed := changedStations before.effective (allEffective entries)
  let s1 : State := { s with station := { s.station with table := some (StationTable.of entries) } }
  let s2 := s1.handAll (changed.map fun i => s1.stationNotice (allEffective entries) i)
  exact ⟨(s2.stationCauses changed).appendArrows, .result { outcome := .done, detail := BitVec.ofNat 32 changed.length },
    s2.stationCauses_slotKept changed, fun p copy => congrArg (fun t : State =>
      t.appendArrows.endCommand { outcome := .done, detail := BitVec.ofNat 32 changed.length })
      (s2.stationCauses_withSlot changed p copy)⟩

theorem State.withStation_ends (s : State) (station : Nat) {f : State → StationTable → StationIx → State}
    (hf : ∀ b i, s.Ends fun t => f t b i) : s.Ends fun t => t.withStation station (f t) := by
  cases table : s.station.table with
  | none =>
    refine ⟨s, .result { outcome := .refusedState }, .refl s, fun p copy => ?_⟩
    simp only [State.withStation, show (s.withSlot p copy).station = s.station from rfl, table]
    rfl
  | some b =>
    by_cases h : station < 12
    · obtain ⟨u, e, kept, he⟩ := hf b ⟨station, h⟩
      refine ⟨u, e, kept, fun p copy => ?_⟩
      simp only [State.withStation, show (s.withSlot p copy).station = s.station from rfl, table, dif_pos h, he p copy]
    · refine ⟨s, .result { outcome := .refusedRange }, .refl s, fun p copy => ?_⟩
      simp only [State.withStation, show (s.withSlot p copy).station = s.station from rfl, table, dif_neg h]
      rfl

theorem State.cmdSetAlternate_ends (s : State) (station alternate : Nat) :
    s.Ends fun t => t.cmdSetAlternate station alternate := by
  refine s.withStation_ends station fun b i => ?_
  by_cases h : alternate < 12
  · simp only [dif_pos h]
    exact s.stationDone_ends _ _
  · simp only [dif_neg h]
    split
    · exact s.stationDone_ends _ _
    · exact s.ends_endCommand _

theorem State.cmdPublishPage_ends (s : State) (a b c : Nat) : s.Ends fun t => t.cmdPublishPage a b c :=
  .ite (c := fun t => t.isReady = false) (fun _ _ => .rfl) (fun _ => s.ends_endCommand _) fun _ =>
    .ite (c := fun _ => (selectorValid a 12 && selectorValid b 4 && selectorValid c 3) = false) (fun _ _ => .rfl)
      (fun _ => s.ends_endCommand _) fun _ =>
      .ite (c := fun t => t.muster.state ≠ .normal) (fun _ _ => .rfl) (fun _ => s.ends_endCommand _) fun _ =>
        .result { s with station := { s.station with pages := publish s.station.pages a b c } }
          { outcome := .done, detail := BitVec.ofNat 32 (publishCount s.station.pages a b c) } (.refl s)
          fun _ _ => rfl

theorem State.cmdOpenWindow_ends (s : State) : s.Ends State.cmdOpenWindow :=
  .ite (c := fun t => t.isReady = false) (fun _ _ => .rfl) (fun _ => s.ends_endCommand _) fun _ =>
    .ite (c := fun t => t.lines.maint.deb = false) (fun _ _ => .rfl) (fun _ => s.ends_endCommand _) fun _ =>
      .ite (c := fun t => t.muster.state ≠ .normal) (fun _ _ => .rfl) (fun _ => s.ends_endCommand _) fun _ =>
        .ite (c := fun t => t.cmd.maint.isSome = true) (fun _ _ => .rfl) (fun _ => s.ends_endCommand _) fun _ =>
          .result { s with cmd := { s.cmd with maint := some 0 } }
            { outcome := .done, detail := BitVec.ofNat 32 s.cfg.timing.maintMinutes } ⟨rfl, rfl⟩
            fun _ _ => rfl

theorem State.cmdCloseWindow_ends (s : State) : s.Ends State.cmdCloseWindow :=
  .ite (c := fun t => t.isReady = false) (fun _ _ => .rfl) (fun _ => s.ends_endCommand _) fun _ =>
    .ite (c := fun t => t.cmd.maint.isNone = true) (fun _ _ => .rfl) (fun _ => s.ends_endCommand _) fun _ =>
      .result (s.closeWindowWith .command) _ ⟨rfl, rfl⟩ fun _ _ => rfl

theorem State.cmdSetClock_ends (s : State) (day second : Nat) : s.Ends fun t => t.cmdSetClock day second :=
  .ite (c := fun _ => 255 < day ∨ 86399 < second) (fun _ _ => .rfl) (fun _ => s.ends_endCommand _) fun _ =>
    .result (State.computeSelections { s with prog := { s.prog with
        clockSet := true, day := day, sec := second, phase := 0, shift := none } })
      { outcome := .done, shiftCancelled := s.prog.shift.isSome } ⟨rfl, rfl⟩
      fun _ _ => rfl

theorem State.cmdScheduleShift_ends (s : State) (day minute : Nat) (minutes : Int) :
    s.Ends fun t => t.cmdScheduleShift day minute minutes :=
  .ite (c := fun _ => 255 < day ∨ 1439 < minute) (fun _ _ => .rfl) (fun _ => s.ends_endCommand _) fun _ =>
    .ite (c := fun _ => shiftValid minutes = false) (fun _ _ => .rfl) (fun _ => s.ends_endCommand _) fun _ =>
      .ite (c := fun _ => (minute : Int) + minutes < 0 ∨ 1439 < (minute : Int) + minutes) (fun _ _ => .rfl)
        (fun _ => s.ends_endCommand _) fun _ =>
        .ite (c := fun t => t.prog.clockSet = false) (fun _ _ => .rfl) (fun _ => s.ends_endCommand _) fun _ =>
          .result { s with prog := { s.prog with shift := some { day, minute, minutes } } }
            { outcome := .done, detail := if s.prog.shift.isSome then 1 else 0 } (.refl s)
            fun _ _ => rfl

theorem State.cmdCancelShift_ends (s : State) : s.Ends State.cmdCancelShift :=
  .result { s with prog := { s.prog with shift := none } }
    { outcome := .done, detail := if s.prog.shift.isSome then 1 else 0 } (.refl s)
            fun _ _ => rfl

theorem State.cmdSetDefaultTarget_ends (s : State) (screen target : Nat) :
    s.Ends fun t => t.cmdSetDefaultTarget screen target :=
  .ite (c := fun t => t.isReady = false) (fun _ _ => .rfl) (fun _ => s.ends_endCommand _) fun _ =>
    .ite (c := fun t => t.screen.screens.length ≤ screen) (fun _ _ => .rfl) (fun _ => s.ends_endCommand _) fun _ =>
      .ite (c := fun _ => 31 < target) (fun _ _ => .rfl) (fun _ => s.ends_endCommand _) fun _ =>
        ⟨(s.modScreen screen fun c => { c with defaultTarget := target }).computeFeatured screen,
          .result { outcome := .done, detail := BitVec.ofNat 32 target },
          (s.modScreen screen fun c => { c with defaultTarget := target }).computeFeatured_slotKept screen, fun p copy => congrArg (fun t : State => t.endCommand { outcome := .done, detail := BitVec.ofNat 32 target })
            ((s.modScreen screen fun c => { c with defaultTarget := target }).computeFeatured_withSlot screen p copy)⟩

theorem State.cmdRescan_ends (s : State) (arg : Nat) : s.Ends fun t => t.cmdRescan arg := by
  refine .ite (c := fun t => t.isReady = false) (fun _ _ => .rfl) (fun _ => s.ends_endCommand _) fun _ => ?_
  cases scanTableOf arg with
  | none => exact s.ends_endCommand _
  | some table =>
    cases h : s.cfg.windowOf table with
    | none =>
      refine ⟨s, .result { outcome := .refusedState }, .refl s, fun p copy => ?_⟩
      simp only [show (s.withSlot p copy).cfg = s.cfg from rfl, h]
      rfl
    | some w =>
      refine ⟨s, .scan w table, .refl s, fun p copy => ?_⟩
      simp only [show (s.withSlot p copy).cfg = s.cfg from rfl, h]
      rfl

theorem State.cmdSetRing_ends (s : State) : s.Ends State.cmdSetRing :=
  .ite (c := fun t => t.notice.head ≠ t.notice.tail) (fun _ _ => .rfl) (fun _ => s.ends_endCommand _) fun _ =>
    .ite (c := fun t => t.notice.descCount < 16 ∨ 1024 < t.notice.descCount) (fun _ _ => .rfl)
      (fun _ => s.ends_endCommand _) fun _ =>
      .ite (c := fun t => t.notice.descWatermark < 1 ∨ t.notice.descCount - 1 < t.notice.descWatermark)
        (fun _ _ => .rfl) (fun _ => s.ends_endCommand _) fun _ =>
        .ite (c := fun t => ringFits t.notice.descBase t.notice.descCount = false) (fun _ _ => .rfl)
          (fun _ => s.ends_endCommand _) fun _ =>
          .result { s with notice := s.notice.moved { base := s.notice.descBase, count := s.notice.descCount,
                                                      watermark := s.notice.descWatermark } }
            { outcome := .done, detail := BitVec.ofNat 32 s.notice.descCount } (.refl s)
            fun _ _ => rfl

/-- The number of argument words that the command with a code takes (R148). -/
def argCount : Nat → Nat
  | 6 | 7 | 16 => 1
  | 8 | 12 | 15 => 2
  | 9 | 13 => 3
  | _ => 0

/-- A command changes the state and ends alike, whatever the path, and with every copy in which the argument words that
it takes are those of the copy that stands. -/
theorem State.startCommand_ends (s : State) (code : Nat) : ∃ (u : State) (e : CommandEnd), s.SlotKept u ∧ ∀ p copy,
    (∀ k < argCount code, (s.withSlot p copy).argWord k = s.argWord k) →
      (s.withSlot p copy).startCommand code = (u.withSlot p copy).endWith e := by
  have plain {f : State → State} {n : Nat} (h : s.Ends f) : ∃ (u : State) (e : CommandEnd), s.SlotKept u ∧ ∀ p copy,
      (∀ k < n, (s.withSlot p copy).argWord k = s.argWord k) → f (s.withSlot p copy) = (u.withSlot p copy).endWith e :=
    h.imp fun u h => h.imp fun e he => ⟨he.1, fun p copy _ => he.2 p copy⟩
  have args {n : Nat} (f : (Nat → Word) → State → State) (only : ∀ v w, (∀ k < n, v k = w k) → f v = f w)
      (h : s.Ends (f s.argWord)) : ∃ (u : State) (e : CommandEnd), s.SlotKept u ∧ ∀ p copy,
        (∀ k < n, (s.withSlot p copy).argWord k = s.argWord k) →
          f (s.withSlot p copy).argWord (s.withSlot p copy) = (u.withSlot p copy).endWith e := by
    obtain ⟨u, e, kept, he⟩ := h
    exact ⟨u, e, kept, fun p copy same => (congrFun (only _ _ same) _).trans (he p copy)⟩
  unfold State.startCommand
  split
  case h_1 => exact plain s.cmdDrillStart_ends
  case h_2 => exact plain s.cmdDrillEnd_ends
  case h_3 => exact plain s.cmdMusterOrder_ends
  case h_4 => exact plain s.cmdAllClear_ends
  case h_5 => exact plain s.cmdStanddownEnd_ends
  case h_6 => exact args (fun v t => t.cmdStationClose (v 0).toNat) (fun v w h => by rw [h 0 (by decide)]) (s.withStation_ends _ fun _ _ => s.stationDone_ends _ _)
  case h_7 => exact args (fun v t => t.cmdStationOpen (v 0).toNat) (fun v w h => by rw [h 0 (by decide)]) (s.withStation_ends _ fun _ _ => s.stationDone_ends _ _)
  case h_8 =>
    exact args (fun v t => t.cmdSetAlternate (v 0).toNat (v 1).toNat)
      (fun v w h => by rw [h 0 (by decide), h 1 (by decide)]) (s.cmdSetAlternate_ends _ _)
  case h_9 =>
    exact args (fun v t => t.cmdPublishPage (v 0).toNat (v 1).toNat (v 2).toNat)
      (fun v w h => by rw [h 0 (by decide), h 1 (by decide), h 2 (by decide)]) (s.cmdPublishPage_ends _ _ _)
  case h_10 => exact plain s.cmdOpenWindow_ends
  case h_11 => exact plain s.cmdCloseWindow_ends
  case h_12 =>
    exact args (fun v t => t.cmdSetClock (v 0).toNat (v 1).toNat)
      (fun v w h => by rw [h 0 (by decide), h 1 (by decide)]) (s.cmdSetClock_ends _ _)
  case h_13 =>
    exact args (fun v t => t.cmdScheduleShift (v 0).toNat (v 1).toNat (v 2).toInt)
      (fun v w h => by rw [h 0 (by decide), h 1 (by decide), h 2 (by decide)]) (s.cmdScheduleShift_ends _ _ _)
  case h_14 => exact plain s.cmdCancelShift_ends
  case h_15 =>
    exact args (fun v t => t.cmdSetDefaultTarget (v 0).toNat (v 1).toNat)
      (fun v w h => by rw [h 0 (by decide), h 1 (by decide)]) (s.cmdSetDefaultTarget_ends _ _)
  case h_16 => exact args (fun v t => t.cmdRescan (v 0).toNat) (fun v w h => by rw [h 0 (by decide)]) (s.cmdRescan_ends _)
  case h_17 => exact plain s.cmdSetRing_ends
  case h_18 => exact plain (s.ends_endCommand _)

end Sys2Proof.Machine

/-! SUPPORT. What delivered lines leave alone: the queue of a write's lines, and, but for the command slot, the muster
state; and that ALL CLEAR is the one way out of MUSTER (R20, R22, R65). -/

namespace Sys2Proof.Machine

open Sys2Proof

set_option Elab.async false

/-! ## What a command of the slot leaves alone (R147) -/

theorem State.endWith_path (s : State) (e : CommandEnd) :
    (s.endWith e).path = { s.path with iwq := (s.endWith e).path.iwq, own := (s.endWith e).path.own } ∧
    (s.endWith e).cmd.copy = s.cmd.copy := by
  cases e with
  | result r =>
    unfold State.endWith State.endCommand
    dsimp only
    split
    · exact ⟨rfl, rfl⟩
    · exact ⟨rfl, rfl⟩
  | scan w table => exact ⟨rfl, rfl⟩

/-- Of the memory path a command changes the IWQ and its own reads alone, and it leaves the copy (R11, R127). -/
theorem State.startCommand_path (s : State) (code : Nat) :
    (s.startCommand code).path =
      { s.path with iwq := (s.startCommand code).path.iwq, own := (s.startCommand code).path.own } ∧
    (s.startCommand code).cmd.copy = s.cmd.copy := by
  obtain ⟨u, e, -, h⟩ := s.startCommand_ends code
  have h : s.startCommand code = (u.withSlot s.path s.cmd.copy).endWith e := h _ _ fun _ _ => rfl
  rw [h]
  exact State.endWith_path _ e

theorem State.actOnWord_path (s : State) :
    s.actOnWord.path = { s.path with iwq := s.actOnWord.path.iwq, own := s.actOnWord.path.own } ∧
    s.actOnWord.cmd.copy = s.cmd.copy := by
  unfold State.actOnWord
  dsimp only
  split
  · exact ⟨rfl, rfl⟩
  · split
    · exact ⟨rfl, rfl⟩
    · exact State.startCommand_path _ _

theorem State.deliverSlot_path (s : State) (w : WriteLine) :
    (s.deliverSlot w).path =
      { s.path with iwq := (s.deliverSlot w).path.iwq, own := (s.deliverSlot w).path.own } ∧
    (s.deliverSlot w).cmd.copy = mergeBytes s.cmd.copy 0 w := by
  unfold State.deliverSlot
  dsimp only
  split
  · exact State.actOnWord_path _
  · exact ⟨rfl, rfl⟩

/-! ## Delivered lines (R18, R20) -/

/-- A line that is not the slot's is no matter of the path, of the muster state or of the slot's copy. -/
theorem State.deliverLine_of_not_slot {s : State} {a : Addr} (h : ¬ s.cfg.isSlot a) (seq : Nat) (w : WriteLine) :
    (s.deliverLine seq a w).path = s.path ∧ (s.deliverLine seq a w).muster = s.muster ∧
    (s.deliverLine seq a w).cmd.copy = s.cmd.copy := by
  unfold State.deliverLine
  dsimp only
  split
  next control =>
    have other : indexIn s.cfg.controlWindow a ≠ 0 := fun index => h ⟨control, index⟩
    unfold State.deliverControl
    split
    next index => exact absurd index other
    · simp
    · exact ⟨rfl, rfl, rfl⟩
  all_goals simp [State.touchScan]

theorem State.deliverLine_of_slot {s : State} {a : Addr} (h : s.cfg.isSlot a) (seq : Nat) (w : WriteLine) :
    s.deliverLine seq a w = s.deliverSlot w := by
  obtain ⟨control, index⟩ := h
  simp [State.deliverLine, control, index, State.deliverControl]

/-- Of the memory path a delivered line changes the IWQ and the own reads alone. -/
theorem State.deliverLine_path (s : State) (seq : Nat) (a : Addr) (w : WriteLine) :
    (s.deliverLine seq a w).path =
      { s.path with iwq := (s.deliverLine seq a w).path.iwq, own := (s.deliverLine seq a w).path.own } := by
  by_cases slot : s.cfg.isSlot a
  · rw [State.deliverLine_of_slot slot]
    exact (s.deliverSlot_path w).1
  · rw [(State.deliverLine_of_not_slot slot seq w).1]

theorem deliverLines_path (seq : Nat) (l : List (Addr × WriteLine)) (s : State) :
    let t := l.foldl (fun t q => t.deliverLine seq q.1 q.2) s
    t.path = { s.path with iwq := t.path.iwq, own := t.path.own } := by
  induction l generalizing s with
  | nil => rfl
  | cons q l ih =>
    have rest := ih (s.deliverLine seq q.1 q.2)
    rw [s.deliverLine_path] at rest
    exact rest

/-! ## The protected store (R22) -/

/-- Without a WRITE no entry joins the PWQ. -/
theorem Move.pwq_subset {s t : State} (m : Move False s t) : t.path.pwq ⊆ s.path.pwq := by
  cases m with
  | quiet q => exact q.pwq ▸ List.Subset.refl _
  | accepted l w => exact w.elim
  | left p h => exact h.subset
  | entryTaken i f => simp [State.entryTaken]
  | musterChanged m o => simp
  | startUp =>
    refine startUpEnds_keeps (p := fun u => u.path.pwq ⊆ s.path.pwq) (fun c _ => ?_) ?_ (fun m o h => by simpa using h)
      (List.Subset.refl _)
    · exact List.nil_subset _
    · exact List.nil_subset _
  | handed | taken | headTested | ringMoved | placed | appended | workTaken | stationsSet | windowOpened | windowShut
  | levelTaken | loaded => exact List.Subset.refl _

theorem Moves.pwq_subset {s t : State} (m : Moves False s t) : t.path.pwq ⊆ s.path.pwq :=
  m.keep (p := fun u => u.path.pwq ⊆ s.path.pwq) (fun move h => List.Subset.trans move.pwq_subset h) (List.Subset.refl _)

/-- With the window CLOSED the protection check drops every write with a PROTECTED line. -/
theorem not_protect_of_protectionCheck {s : State} {l : List Addr} (closed : s.cmd.maint = none)
    (h : s.protectionCheck l = none) : ∀ a ∈ l, s.cfg.classOf a ≠ .protect := by
  unfold State.protectionCheck at h
  split at h
  next none => simpa using none
  · rw [closed] at h
    cases h

/-- What a WRITE leaves in the PWQ: what was there, and its lines where it has been accepted (R2, R22). -/
theorem State.writeArrives_pwq (s : State) (first : Addr) (lines : List WriteLine) :
    (s.writeArrives first lines).path.pwq = s.path.pwq ∨
    (s.protectionCheck ((addressed first lines).map (·.1)) = none ∧ (s.writeArrives first lines).path.pwq =
      s.path.pwq ++ (addressed first lines).map (pwqEntryOf s.path.seq)) := by
  unfold State.writeArrives
  dsimp only
  split
  · exact .inl rfl
  · split
    · simp
    next unprotected =>
      split
      · exact .inl rfl
      · refine .inr ⟨unprotected, ?_⟩
        unfold State.acceptWrite
        rw [deliverLines_path]
        rfl

/-- Settles O12: what joins the PWQ is of a WRITE that has passed the protection check. -/
theorem closedWindowGuardsStore : Obligations.ClosedWindowGuardsStore := by
  intro c s t closed h e he
  obtain ⟨-, rfl⟩ | ⟨first, lines, rfl⟩ | m := exec_moves (write := False) h
  · cases he
  · rw [(settle_follows s (s.writeArrives first lines)).1] at he
    obtain same | ⟨unprotected, joined⟩ := s.writeArrives_pwq first lines
    · exact .inl (same ▸ he)
    · obtain old | new := List.mem_append.1 (joined ▸ he)
      · exact .inl old
      · obtain ⟨q, hq, rfl⟩ := List.mem_map.1 new
        exact .inr (not_protect_of_protectionCheck closed unprotected q.1 (List.mem_map_of_mem hq))
  · exact .inl (m.pwq_subset he)

/-! ## The way out of MUSTER (R61, R65) -/

/-- Without an ALL CLEAR a started part stays in MUSTER. -/
theorem Moves.muster_kept {s t : State} (m : Moves False s t) (started : s.started = true)
    (muster : s.muster.state = .muster) : t.started = true ∧ t.muster.state = .muster := by
  refine m.keep (p := fun u => u.started = true ∧ u.muster.state = .muster) ?_ ⟨started, muster⟩
  rintro s t move ⟨started, muster⟩
  cases move with
  | quiet q => exact ⟨by simpa only [State.started, q.phase] using started, q.state.trans muster⟩
  | entryTaken i f =>
    exact ⟨by simpa [State.entryTaken, State.started] using started, by simpa [State.entryTaken] using muster⟩
  | musterChanged m o edge =>
    rw [muster] at edge
    generalize m.state = after at edge
    cases edge with
    | order h => simp at h
    | allClear w => exact w.elim
  | loaded l off => exact absurd (started.symm.trans off) (by simp)
  | startUp check => simp [State.started, check] at started
  | accepted l w => exact w.elim
  | handed | taken | headTested | ringMoved | placed | left | appended | workTaken | stationsSet | windowOpened
  | windowShut | levelTaken => exact ⟨started, muster⟩

/-- The state `t` has left MUSTER by an ALL CLEAR that was taken with the muster record `m` and the lines `ls`. -/
def State.ClearedFrom (t : State) (m : MusterUnit) (ls : Lines) : Prop :=
  t.muster.state = .standdown ∧ ls.muster.deb = false ∧ vecByte t.cmd.copy 0 = 4 ∧
  t.muster.epoch = m.epoch ∧ t.muster.cause = m.cause

theorem State.cmdAllClear_cleared {s : State} (muster : s.muster.state = .muster) (code : vecByte s.cmd.copy 0 = 4) :
    s.cmdAllClear.muster.state = .muster ∨ s.cmdAllClear.ClearedFrom s.muster s.lines := by
  have copy : s.cmdAllClear.cmd.copy = s.cmd.copy := (s.startCommand_path 4).2
  unfold State.ClearedFrom
  rw [copy]
  unfold State.cmdAllClear State.endMuster
  split
  · exact .inl (by simpa using muster)
  · split
    · exact .inl (by simpa using muster)
    next low =>
      obtain ⟨⟨record, -⟩, -⟩ :=
        changeMuster_changed s { s.muster with state := .standdown, standdown := some 0 } .command
      simp only [State.endCommand_frame]
      rw [record]
      exact .inr ⟨rfl, by simpa using low, code, rfl, rfl⟩

theorem State.actOnWord_cleared {s : State} (muster : s.muster.state = .muster) (code : vecByte s.cmd.copy 0 = 4) :
    s.actOnWord.muster.state = .muster ∨ s.actOnWord.ClearedFrom s.muster s.lines := by
  unfold State.actOnWord
  simp only [code]
  split
  · exact .inl muster
  · split
    · exact .inl muster
    · have start (u : State) : u.startCommand (4 : Byte).toNat = u.cmdAllClear := rfl
      rw [start]
      exact State.cmdAllClear_cleared (s := { s with cmd := { s.cmd with
        executing := true, overrunMark := false, seqInHand := vecByte s.cmd.copy 1 } }) muster code

/-- The line of the command slot leaves the state in MUSTER, or holds an ALL CLEAR (R65, R147). -/
theorem State.deliverSlot_cleared {s : State} (w : WriteLine) (started : s.started = true)
    (muster : s.muster.state = .muster) :
    (s.deliverSlot w).muster.state = .muster ∨ (s.deliverSlot w).ClearedFrom s.muster s.lines := by
  by_cases code : vecByte (mergeBytes s.cmd.copy 0 w) 0 = 4
  · unfold State.deliverSlot
    generalize mergeBytes s.cmd.copy 0 w = copy at code
    dsimp only
    split
    · exact State.actOnWord_cleared (s := { s with cmd := { s.cmd with copy := copy } }) muster code
    · exact .inl muster
  · exact .inl ((s.deliverSlot_moves w code).muster_kept started muster).2

/-- Lines that are not the slot's leave the muster state and the slot's copy alone. -/
theorem deliverLines_of_not_slot (seq : Nat) (l : List (Addr × WriteLine)) (s : State)
    (h : ∀ q ∈ l, ¬ s.cfg.isSlot q.1) :
    let t := l.foldl (fun t q => t.deliverLine seq q.1 q.2) s
    t.muster = s.muster ∧ t.cmd.copy = s.cmd.copy := by
  induction l generalizing s with
  | nil => exact ⟨rfl, rfl⟩
  | cons q l ih =>
    obtain ⟨-, muster, copy⟩ := State.deliverLine_of_not_slot (h q List.mem_cons_self) seq q.2
    obtain ⟨restMuster, restCopy⟩ := ih (s.deliverLine seq q.1 q.2) fun r hr => by simpa using h r (.tail q hr)
    exact ⟨restMuster.trans muster, restCopy.trans copy⟩

/-- Lines of which at most one is the slot's leave the state in MUSTER, or hold an ALL CLEAR. -/
theorem deliverLines_cleared (seq : Nat) (l : List (Addr × WriteLine)) (s : State) (started : s.started = true)
    (muster : s.muster.state = .muster) (once : l.Pairwise fun q r => s.cfg.isSlot q.1 → ¬ s.cfg.isSlot r.1) :
    let t := l.foldl (fun t q => t.deliverLine seq q.1 q.2) s
    t.muster.state = .muster ∨ t.ClearedFrom s.muster s.lines := by
  induction l generalizing s with
  | nil => exact .inl muster
  | cons q l ih =>
    obtain ⟨others, once⟩ := List.pairwise_cons.1 once
    by_cases slot : s.cfg.isSlot q.1
    · obtain ⟨restMuster, restCopy⟩ := deliverLines_of_not_slot seq l (s.deliverLine seq q.1 q.2) fun r hr => by
        simpa using others r hr slot
      unfold State.ClearedFrom
      dsimp only [List.foldl_cons]
      rw [restMuster, restCopy, State.deliverLine_of_slot slot]
      exact State.deliverSlot_cleared q.2 started muster
    · obtain ⟨-, same, -⟩ := State.deliverLine_of_not_slot slot seq q.2
      have rest := ih (s.deliverLine seq q.1 q.2) (by simpa [State.started] using started) (by rw [same]; exact muster)
        (by simpa using once)
      unfold State.ClearedFrom at rest ⊢
      rw [same, (State.deliverLine_frame s seq q.1 q.2).2.2.2.2.2] at rest
      exact rest

/-- Two lines of the slot's address are one line (R16). -/
theorem Decoder.isSlot_near {c : Decoder} {a b : Addr} (ha : c.isSlot a) (hb : c.isSlot b) :
    ∃ base : Addr, base.toNat ≤ a.toNat ∧ a.toNat < base.toNat + 64 ∧ base.toNat ≤ b.toNat ∧ b.toNat < base.toNat + 64 := by
  have near {x : Addr} (h : c.isSlot x) : ∃ base, c.control = some base ∧ base.toNat ≤ x.toNat ∧ x.toNat < base.toNat + 64 := by
    obtain ⟨control, index⟩ := h
    have covered : coveredBy c.controlWindow x = true := by
      unfold Decoder.classOf at control
      by_contra no
      rw [if_neg no] at control
      repeat' split at control
      all_goals cases control
    unfold Decoder.controlWindow at covered index
    cases control : c.control with
    | none => simp [control, coveredBy] at covered
    | some base =>
      simp [control, coveredBy, Window.covers, indexIn, Window.lineIndex] at covered index
      exact ⟨base, rfl, covered.1, by omega⟩
  obtain ⟨base, control, low, high⟩ := near ha
  obtain ⟨base', control', low', high'⟩ := near hb
  obtain rfl := Option.some_inj.1 (control.symm.trans control')
  exact ⟨base, low, high, low', high'⟩

/-- Of the lines of a write at most one is the slot's: fewer lines than the address space has (R2). -/
theorem addressed_slot_once (c : Decoder) (first : Addr) (lines : List WriteLine) (few : lines.length ≤ 67108864) :
    (addressed first lines).Pairwise fun q r => c.isSlot q.1 → ¬ c.isSlot r.1 := by
  rw [List.pairwise_iff_getElem]
  intro i j hi hj lt hq hr
  simp only [addressed, List.length_mapIdx] at hi hj
  simp only [addressed, List.getElem_mapIdx] at hq hr
  obtain ⟨base, h1, h2, h3, h4⟩ := Decoder.isSlot_near hq hr
  unfold nthLine at *
  bv_omega

theorem State.writeArrives_cleared {s : State} (first : Addr) (lines : List WriteLine) (started : s.started = true)
    (muster : s.muster.state = .muster) :
    (s.writeArrives first lines).muster.state = .muster ∨ (s.writeArrives first lines).ClearedFrom s.muster s.lines := by
  unfold State.writeArrives
  dsimp only
  split
  · exact .inl muster
  · split
    · exact .inl (by simpa using muster)
    · split
      · exact .inl muster
      next room =>
        have few : lines.length ≤ 67108864 := by
          simp only [addressed, List.length_mapIdx, Path.pwqFree, Config.pwqSize] at room
          omega
        exact deliverLines_cleared s.path.seq (addressed first lines)
          ((s.answerPsp .accept).enqueueWrite (addressed first lines)) started muster (addressed_slot_once _ _ _ few)

/-- Settles O11: only a write can take the ALL CLEAR, and a write has one line for the slot. -/
theorem musterLeftOnlyByAllClear : Obligations.MusterLeftOnlyByAllClear := by
  intro c s t muster started notReset h left
  obtain ⟨reset, -⟩ | ⟨first, lines, rfl⟩ | m := exec_moves (write := False) h
  · exact absurd reset notReset
  · rw [(settle_follows s (s.writeArrives first lines)).1] at left ⊢
    exact (State.writeArrives_cleared first lines started muster).resolve_left left
  · exact absurd (m.muster_kept started muster).2 left

end Sys2Proof.Machine

/-! SUPPORT. The input lines and the bell recogniser, requests without room, timeouts, notices and the status of an
entry (R2, R5, R12, R50 to R57, R117, R153). -/

namespace Sys2Proof.Machine

open Sys2Proof

set_option Elab.async false

/-! ## Commands that the status block does not show (R157) -/

theorem commit_of_same {s u : State} (h : ∀ i, s.statusLine i = u.statusLine i) : commit s u = .next u := by
  rw [commit, settle_same h]

theorem settleWith_self (mark : Bool) (s : State) : settleWith mark s s = s := by
  have none : changedLines s s = [] := by simp [changedLines]
  simp [settleWith, none]

theorem commit_self (s : State) : commit s s = .next s := commit_of_same fun _ => rfl

/-! ## Filters (R50) -/

/-- Settles O47: a filter is no part of the status block, so that each branch of the two meanings stands as it is. -/
theorem filtersFollowPins : Obligations.FiltersFollowPins := by
  refine ⟨fun line level s => ?_, fun line s => ⟨fun differs due quiet => ?_, fun early => ?_⟩⟩
  · exact commit_of_same fun _ => rfl
  · have due : (s.lines.get line).degDue = true := by simp [Filter.degDue, Config.deglitchMs, differs, due]
    have silent : ¬ (line = .bell ∧ s.started = true) := fun h => quiet.elim (· h.1) (by simp [h.2])
    change commit s (s.deglitch line) = _
    simp only [State.deglitch, due, if_true, silent, if_false]
    exact commit_of_same fun _ => rfl
  · have early : ¬ (s.lines.get line).degDue = true := by
      rw [Filter.degDue, Bool.and_eq_true, decide_eq_true_eq, decide_eq_true_eq, not_and_or, not_not, not_le]
      exact early
    change commit s (s.deglitch line) = _
    rw [State.deglitch, if_neg early]
    exact commit_self s

/-! ## The bell recogniser (R54, R55, R57) -/

/-- Before a long blast is due a fall ends a period of less than 4000 ms (R55). -/
theorem State.takeBellFall_of_not_due {s : State} (h : s.muster.longDue = false) :
    s.takeBellFall = { s with muster := s.muster.bellFall (s.muster.highTimer.getD 0) } := by
  simp [State.takeBellFall, State.takeLongBlast, h]

/-- A change of the deglitched BELL level that has stood for 20 ms goes to the recogniser (R50, R52). -/
theorem deglitchExpiry_bell {s : State} (started : s.started = true) (differs : s.lines.bell.raw ≠ s.lines.bell.deg)
    (due : 20 ≤ s.lines.bell.degCount) :
    exec (.deglitchExpiry .bell) s =
      commit s (State.bellChange { s with lines := { s.lines with bell := s.lines.bell.deglitched } } s.lines.bell.raw) := by
  have due : s.lines.bell.degDue = true := by simp [Filter.degDue, Config.deglitchMs, differs, due]
  change commit s (s.deglitch .bell) = _
  simp only [State.deglitch, Lines.get, due, if_true, started, and_self]
  rfl

/-- A fall of BELL before a long blast is due: the recogniser takes the fall, and the status block shows none of it. -/
theorem bellFall_commit {s : State} {n : MusterUnit} (low : s.lines.bell.raw = false) (early : s.muster.longDue = false)
    (fall : s.muster.bellFall (s.muster.highTimer.getD 0) = n)
    (same : ∀ i, s.statusLine i = State.statusLine { s with muster := n } i) :
    commit s (State.bellChange { s with lines := { s.lines with bell := s.lines.bell.deglitched } } s.lines.bell.raw) =
      .next { s with
        lines := { s.lines with bell := { s.lines.bell with deg := false, degCount := 0, debCount := 0 } }
        muster := n } := by
  have taken := State.takeBellFall_of_not_due (s := { s with lines := { s.lines with bell := s.lines.bell.deglitched } })
    early
  simp only [State.bellChange, low, Bool.false_eq_true, if_false, taken, fall]
  rw [Filter.deglitched, low]
  exact commit_of_same same

/-- The classes of a high period below 4000 ms (spec 04, table of classes). -/
theorem blastClass_noise {d : Nat} (h : d < 300) : blastClass d = .noise := by simp [blastClass, h]

theorem blastClass_short {d : Nat} (h : 300 ≤ d) (g : d < 2000) : blastClass d = .short := by
  simp [blastClass, g, Nat.not_lt.2 h]

theorem blastClass_invalid {d : Nat} (h : 2000 ≤ d) : blastClass d = .invalid := by
  have : ¬ d < 300 := by omega
  simp [blastClass, this, Nat.not_lt.2 h]

/-- A period below 4000 ms is no long blast (R56). -/
theorem MusterUnit.longDue_of_lt {m : MusterUnit} {d : Nat} (timer : m.highTimer = some d) (h : d < 4000) :
    m.longDue = false := by
  unfold MusterUnit.longDue
  split
  · rfl
  next other _ =>
    obtain rfl := Option.some_inj.1 (timer.symm.trans other)
    exact decide_eq_false (Nat.not_le.2 h)
  · rfl

/-- Settles O48: the recogniser by its state and the class of the period. -/
theorem bellRecogniser : Obligations.BellRecogniser := by
  refine ⟨fun s started differs due => ?_, fun s n timer due => ?_⟩
  · rw [deglitchExpiry_bell started differs due]
    refine ⟨fun high notLong => ?_, fun low long => ?_, fun d low timer => ?_⟩
    · have rise : s.muster.bellRise = { s.muster with highTimer := some 0 } := by
        unfold MusterUnit.bellRise
        split
        · rfl
        · rfl
        next long => exact absurd long notLong
      simp only [State.bellChange, high, if_true, rise]
      rw [Filter.deglitched, high]
      exact commit_of_same fun _ => rfl
    · have early : s.muster.longDue = false := by simp [MusterUnit.longDue, long]
      exact bellFall_commit low early (by simp [MusterUnit.bellFall, long]) fun _ => rfl
    · have falls {n : MusterUnit} (h : d < 4000) (fall : s.muster.bellFall d = n) :=
        bellFall_commit (n := n) low (s.muster.longDue_of_lt timer h) (by rwa [timer])
      refine ⟨fun idle none => ?_, fun idle h g => ?_, fun counting h kept => ?_, fun counting lost => ?_,
        fun counting h g => ?_⟩
      · obtain noise | ⟨invalid, h⟩ := none
        · exact falls (by omega) (by simp [MusterUnit.bellFall, idle, blastClass_noise noise]) fun _ => rfl
        · exact falls h (by simp [MusterUnit.bellFall, idle, blastClass_invalid invalid]) fun _ => rfl
      · exact falls (by omega) (by simp [MusterUnit.bellFall, idle, blastClass_short h g]) fun _ => rfl
      · exact falls (by omega) (by simp [MusterUnit.bellFall, counting, blastClass_noise h, kept]) fun _ => rfl
      · obtain ⟨noise, expired⟩ | ⟨invalid, h⟩ := lost
        · exact falls (by omega)
            (by simp [MusterUnit.bellFall, counting, blastClass_noise noise, expired, MusterUnit.loseCount]) fun _ => rfl
        · exact falls h
            (by simp [MusterUnit.bellFall, counting, blastClass_invalid invalid, MusterUnit.loseCount]) fun _ => rfl
      · exact falls (by omega) (by simp [MusterUnit.bellFall, counting, blastClass_short h g]) fun _ => rfl
  · change commit s s.gapExpiry = _
    simp only [State.gapExpiry, timer, Config.gapMs, due, if_true]
    split
    · exact commit_of_same fun _ => rfl
    · exact commit_of_same fun _ => rfl

/-! ## Requests without room (R1, R2, R5) -/

/-- The addresses of a write's lines, in the request's order. -/
theorem addressed_addrs (first : Addr) (lines : List WriteLine) :
    (addressed first lines).map (·.1) = (List.range lines.length).map fun i => nthLine first i := by
  apply List.ext_getElem <;> simp [addressed]

theorem addressed_length (first : Addr) (lines : List WriteLine) : (addressed first lines).length = lines.length := by
  simp [addressed]

theorem Path.freeTracker_eq_none {p : Path} (h : ∀ i : Fin 8, p.trackers[i] ≠ none) : p.freeTracker = none := by
  unfold Path.freeTracker
  rw [List.find?_eq_none]
  exact fun i _ free => h i (Option.isNone_iff_eq_none.1 free)

/-- Where a tracker is free, a free one is taken (R5, log 6). -/
theorem Path.freeTracker_eq_some {p : Path} (h : ∃ i : Fin 8, p.trackers[i] = none) :
    ∃ k : Fin 8, p.freeTracker = some k ∧ p.trackers[k] = none := by
  obtain ⟨i, free⟩ := h
  obtain ⟨k, found⟩ := Option.isSome_iff_exists.1
    (List.find?_isSome.2 ⟨i, List.mem_finRange i, Option.isNone_iff_eq_none.2 free⟩ : p.freeTracker.isSome = true)
  exact ⟨k, found, Option.isNone_iff_eq_none.1 (List.find?_some (p := fun t : Fin 8 => p.trackers[t].isNone) found)⟩

/-- Settles O13: the tests that end in RETRY. -/
theorem retryLeavesNoTrace : Obligations.RetryLeavesNoTrace := by
  refine ⟨fun req s retry => ?_, fun tag first count s retry => ?_⟩
  · have answered : s.writeArrives (lineAddr req.first) req.lines = s.answerPsp .retry := by
      unfold State.writeArrives
      obtain off | ⟨unprotected, full⟩ := retry
      · rw [if_pos off]
      · split
        · rfl
        · simp only [addressed_addrs, unprotected, addressed_length, full, if_true]
    change commit s (s.writeArrives _ _) = _
    rw [answered]
    exact commit_of_same fun _ => rfl
  · have answered : s.readArrives tag (lineAddr first) count = s.answerPsp .retry := by
      unfold State.readArrives
      obtain off | busy := retry
      · rw [if_pos off]
      · rw [Path.freeTracker_eq_none busy, ite_self]
    change commit s (s.readArrives _ _ _) = _
    rw [answered]
    exact commit_of_same fun _ => rfl

/-! ## Timeouts (R12) -/

/-- Settles O26: an expiry whose timer is at its limit is the ERROR answer of its request. -/
theorem timeoutIsError : Obligations.TimeoutIsError := by
  have expiry {due : Prop} [Decidable due] {mark : Bool} {s u v : State} (h : u = if due then v else s) :
      ∃ t, Host.Outcome.next (settleWith mark s u) = (.next t : Out) ∧
        if due then (.next (settleWith mark s v) : Out) = .next t else t = s := by
    refine ⟨_, rfl, ?_⟩
    split
    next now => rw [h, if_pos now]
    next later => rw [h, if_neg later, settleWith_self]
  refine ⟨fun s k j l n => ⟨fun timer => ?_, fun timer => ?_, fun state => ?_, fun state => ?_⟩, fun _ _ => rfl⟩
  · exact expiry (by simp [State.timeout, timer, State.timedOut]; rfl)
  · exact expiry (by simp [State.timeout, timer, State.timedOut]; rfl)
  · exact expiry (by simp [State.timeout, state, State.lineTimedOut, State.timedOut])
  · exact expiry (by simp [State.timeout, state, State.lineTimedOut, State.timedOut]; rfl)

/-! ## The notice queue (R153) -/

/-- Settles O27: by the room of the queue, and by the class of the notice where there is none. -/
theorem noticeQueued : Obligations.NoticeQueued := by
  refine fun u n => ⟨fun room => ?_, fun front back m queue full urgent older routine => ?_, fun full none => ?_⟩
  · exact if_pos room
  · have full : ¬ u.queue.length < Config.queueSize := Nat.not_lt.2 full
    have passed : ∀ x ∈ front, ¬ (!x.urgent) = true := by simpa using older
    have some : (n.urgent && u.queue.any fun m => !m.urgent) = true := by simp [urgent, queue, routine]
    rw [NoticeUnit.push, if_neg full, if_pos some, queue, List.eraseP_append_right _ passed]
    simp [routine, satInc, Config.counterMax]
  · have full : ¬ u.queue.length < Config.queueSize := Nat.not_lt.2 full
    have none : (n.urgent && u.queue.any fun m => !m.urgent) = false := by
      obtain routine | urgent := none
      · rw [routine, Bool.false_and]
      · simpa using fun _ => urgent
    simp [NoticeUnit.push, full, none, satInc, Config.counterMax]

/-! ## The status of an entry (R117) -/

/-- Settles O31: the fields as their bytes give them. -/
theorem entryStatusByFields : Obligations.EntryStatusByFields := by
  intro b
  have start : entryStart b = b[4].toNat + 256 * b[5].toNat := by
    simp [entryStart, field16_toNat, number2, vecByte_of_lt]
  have duration : entryDuration b = b[6].toNat + 256 * b[7].toNat := by
    simp [entryDuration, field16_toNat, number2, vecByte_of_lt]
  have none (n : Nat) : n = 0 ↔ n < 1 := Nat.lt_one_iff.symm
  simp only [statusOf, failingField, start, duration, none, vecByte_of_lt b (show 0 < 32 by decide),
    vecByte_of_lt b (show 1 < 32 by decide), vecByte_of_lt b (show 3 < 32 by decide),
    vecByte_of_lt b (show 8 < 32 by decide), vecByte_of_lt b (show 9 < 32 by decide), gt_iff_lt]
  split_ifs <;> rfl

/-! ## Right after reset -/

/-- Settles O3. -/
theorem invariantsAtReset : Obligations.InvariantsAtReset := by
  refine ⟨?_, ?_, ?_, ?_, ?_, ?_, ?_, ?_, ?_, ?_⟩
  · simp [State.QueuesBounded, State.reset]
  · simp [State.WindowGuarded, State.reset]
  · simp [State.LineObeyed, State.reset, State.started]
  · exact (by decide : State.reset.muster.shown = State.reset.shownCondition)
  · simp [State.CoveredSound, State.reset]
  · simp [State.WorkSound, State.ScreensBounded, State.reset]
  · exact State.ringSound_iff.2
      ⟨NoticeUnit.ringSound_of_empty (by simp [RingConf.Sound, State.reset]) rfl rfl rfl (by decide), by simp [State.reset]⟩
  · simp [State.PendingSound, State.reset]
  · simp [State.StationsSound, State.reset]
  · exact State.listSound_iff.2 (listOf_replicate 0)

end Sys2Proof.Machine

/-! SUPPORT. The steps: a tick of time, and what every command answers (R12, R50, R157, R164). -/

namespace Sys2Proof.Machine

open Sys2Proof

set_option Elab.async false

/-! ## Ticks (R12, R50, R164) -/

theorem Path.tick_readState (p : Path) (limit : Nat) (k : Fin 8) (l : Nat) :
    (p.tick limit).readState k l = (p.readState k l).map (LineState.tick limit) := by
  simp only [Path.readState, Path.tick, Fin.getElem_fin, Vector.getElem_map]
  cases p.trackers[k.val] with
  | none => rfl
  | some t => simp [List.getElem?_map, Function.comp_def]

theorem Path.tick_ownState (p : Path) (limit : Nat) (k : Fin 2) (l : Nat) :
    (p.tick limit).ownState k l = (p.ownState k l).map (LineState.tick limit) := by
  simp only [Path.ownState, Path.tick, Fin.getElem_fin, Vector.getElem_map]
  cases p.own[k.val] with
  | none => rfl
  | some t => simp [List.getElem?_map, Function.comp_def]

theorem Lines.tick_get (ls : Lines) (line : InputLine) :
    ls.tick.get line = (ls.get line).tick (match line with
      | .bell => 0
      | .muster | .maint => 200
      | .fire _ => 100) := by
  cases line with
  | bell | muster | maint => rfl
  | fire n => simp [Lines.get, Lines.tick]

theorem State.tick_path {s : State} (h : s.loader.phase ≠ .reset) :
    s.tick.path = s.path.tick s.cfg.timing.memoryTenths := by
  unfold State.tick
  rw [if_neg h]
  dsimp only
  split
  · rfl
  · simp

/-- A millisecond before start-up has ended (R50, R52). -/
theorem State.msTick_off {s : State} (h : s.loader.phase ≠ .reset) (off : s.started = false) :
    s.msTick = { s with
      lines := s.lines.tick
      loader := { s.loader with sinceRelease := min (s.loader.sinceRelease + 1) Config.startUpMs } } := by
  rw [State.msTick, if_neg h]
  exact if_neg (by rw [State.started] at off ⊢; simp [off])

/-- A millisecond once start-up has ended (R164). -/
theorem State.msTick_on {s : State} (h : s.loader.phase ≠ .reset) (on : s.started = true) :
    s.msTick = { s with
      lines := s.lines.tick
      loader := { s.loader with sinceRelease := min (s.loader.sinceRelease + 1) Config.startUpMs }
      time := { s.time with uptimePhase := min (s.time.uptimePhase + 1) 1000 }
      muster := s.muster.tick s.standdownLimit
      screen := { s.screen with screens := s.screen.screens.map (Screen.tick s.cfg.timing.darkMs) }
      prog := s.prog.tick
      cmd := { s.cmd with maint := tickTimer s.maintLimit s.cmd.maint } } := by
  rw [State.msTick, if_neg h]
  exact if_pos on

theorem State.msTick_lines {s : State} (h : s.loader.phase ≠ .reset) : s.msTick.lines = s.lines.tick := by
  cases on : s.started with
  | false => rw [State.msTick_off h on]
  | true => rw [State.msTick_on h on]

/-- Settles O1, part by part: the timers of requests, the tenths, and the milliseconds. -/
theorem stepRunsFrontCommand : Obligations.StepRunsFrontCommand := by
  refine ⟨fun c rest s front => ?_, fun s idle => ?_, fun s reset => ?_, fun s running => ?_⟩
  · rw [step, front]
  · rw [step, idle]
  · rw [State.tick, if_pos reset]
  · intro t up limit path
    have ticked : t.path = s.path.tick limit := s.tick_path running
    have same : path = s.path.tick limit := by
      unfold path
      rw [ticked]
      rfl
    refine ⟨fun k j l n => ⟨fun issued => ?_, fun issued => ?_⟩,
      fun k j l st other => ⟨fun same => ?_, fun same => ?_⟩, fun early => ?_, fun due => ?_⟩
    · rw [ticked, Path.tick_readState, issued]; rfl
    · rw [ticked, Path.tick_ownState, issued]; rfl
    · rw [ticked, Path.tick_readState, same]
      cases st with
      | issued n => exact absurd rfl (other n)
      | held | ready | arrived | failed | dropped => rfl
    · rw [ticked, Path.tick_ownState, same]
      cases st with
      | issued n => exact absurd rfl (other n)
      | held | ready | arrived | failed | dropped => rfl
    · have tenth : t = { s with path := s.path.tick limit, time := { s.time with tenth := s.time.tenth + 1 } } := by
        unfold t State.tick
        rw [if_neg running]
        dsimp only
        rw [if_pos early]
      rw [tenth, same]
    · have ms : t = State.msTick { s with path := s.path.tick limit, time := { s.time with tenth := 0 } } := by
        unfold t State.tick
        rw [if_neg running]
        dsimp only
        rw [if_neg (by omega)]
      have lines : t.lines = s.lines.tick := by
        rw [ms]
        exact State.msTick_lines running
      refine ⟨fun line => ?_, fun off => ?_, fun on => ?_⟩
      · rw [lines, Lines.tick_get]
        cases line <;> rfl
      · rw [lines, same, ms]
        exact State.msTick_off running off
      · have clock : s.prog.tick = { s.prog with
            phase := if s.prog.clockSet = true then min (s.prog.phase + 1) 1000 else s.prog.phase } := by
          unfold ProgUnit.tick
          split <;> rfl
        rw [lines, same, ms, ← clock]
        exact State.msTick_on running on

/-! ## Every command answers (R157) -/

/-- The status block's bookkeeping is no matter of what the status block shows. -/
theorem StatusFollows.statusLine {u t : State} (h : StatusFollows u t) (i : Fin 7) : t.statusLine i = u.statusLine i := by
  rw [h.1]
  rfl

theorem commit_answers {s u : State} (h : u.pending = s.pending) : ∃ t, commit s u = .next t ∧ t.pending = s.pending := by
  refine ⟨_, rfl, ?_⟩
  rw [(settle_follows s u).1]
  exact h

theorem startUpEnds_pending (s : State) : s.startUpEnds.pending = s.pending :=
  startUpEnds_keeps (p := fun u => u.pending = s.pending) (fun _ _ => rfl) rfl (fun _ _ h => by simpa using h) rfl

theorem exec_answers (c : Instr) (s : State) : ∃ t, exec c s = .next t ∧ t.pending = s.pending := by
  have unmarked {mark : Bool} {u : State} (h : u.pending = s.pending) : (settleWith mark s u).pending = s.pending := by
    rw [(settleWith_follows mark s u).1]
    exact h
  cases c
  case reset => exact ⟨_, rfl, rfl⟩
  case lateAnswer => exact ⟨_, rfl, rfl⟩
  case iwqWriteAnswer a => exact ⟨_, rfl, unmarked (by simp)⟩
  case memoryTimeout r => exact ⟨_, rfl, unmarked (by simp)⟩
  case resetRelease strap1 strap0 =>
    refine commit_answers ?_
    unfold State.release
    split <;> rfl
  case romLoadEnd rom =>
    refine commit_answers ?_
    unfold State.romLoaded
    split <;> rfl
  case startUpEnd => exact commit_answers (startUpEnds_pending s)
  all_goals exact commit_answers (by simp)

/-- The entries of the IWQ for status line `i` that wait hold the bytes `d` (R157). -/
def Path.WaitingHold (p : Path) (i : Fin 7) (d : LineData) : Prop :=
  ∀ e ∈ p.unissued, e.kind = .status i → e.data = d

theorem Path.mergeStatus_unissued (p : Path) (i : Fin 7) (d : LineData) :
    (p.mergeStatus i d).unissued = p.unissued.map (mergeEntry i d) := by
  unfold Path.mergeStatus Path.unissued
  cases h : p.iwqTimer.isSome with
  | false => simp [h]
  | true =>
    cases p.iwq with
    | nil => simp [h]
    | cons e l => simp [h]

/-- A change shown on one line keeps the kinds of what waits, and each entry's data but for those of that line. -/
theorem showLine_unissued (mark : Bool) (d : LineData) (s : State) (i : Fin 7) :
    (State.showLine mark d s i).path.unissued = s.path.unissued.map (mergeEntry i d) := by
  unfold State.showLine
  split
  · exact s.path.mergeStatus_unissued i d
  next none =>
    have same : s.path.unissued.map (mergeEntry i d) = s.path.unissued := by
      refine (List.map_congr_left fun e he => ?_).trans (List.map_id _)
      have other : e.isStatus i = false := by
        by_contra status
        exact none (List.any_eq_true.2 ⟨e, he, by simpa using status⟩)
      simp [mergeEntry, other]
    rw [same]
    split <;> rfl

theorem mergeEntry_kind (i : Fin 7) (d : LineData) (e : IwqEntry) : (mergeEntry i d e).kind = e.kind := by
  unfold mergeEntry
  split <;> rfl

/-- Line `i` is shown: it is dirty or waits (R157). -/
def State.Shown (s : State) (i : Fin 7) : Prop :=
  s.notice.dirty[i] = true ∨ ∃ e ∈ s.path.unissued, e.kind = .status i

/-- A line that is shown stays so while others are. -/
theorem State.Shown.showLine {s : State} {i : Fin 7} (h : s.Shown i) (mark : Bool) (d : LineData) (j : Fin 7) :
    (State.showLine mark d s j).Shown i := by
  obtain dirty | ⟨e, he, kind⟩ := h
  · exact .inl ((showLine_follows mark d s j).2.2 i dirty)
  · refine .inr ⟨mergeEntry j d e, ?_, (mergeEntry_kind j d e).trans kind⟩
    rw [showLine_unissued]
    exact List.mem_map_of_mem he

/-- A line that has changed is shown, where the change sets a mark. -/
theorem showLine_shown (d : LineData) (s : State) (i : Fin 7) : (State.showLine true d s i).Shown i := by
  unfold State.showLine
  split
  next waits =>
    obtain ⟨e, he, status⟩ := List.any_eq_true.1 waits
    have kind : e.kind = .status i := by simpa [IwqEntry.isStatus] using status
    refine .inr ⟨mergeEntry i d e, ?_, (mergeEntry_kind i d e).trans kind⟩
    rw [Path.mergeStatus_unissued]
    exact List.mem_map_of_mem he
  · exact .inl (by simp)

/-- What waits for line `i` holds its bytes once they have been shown, and while other lines are. -/
theorem showLine_waitingHold (mark : Bool) (lines : Fin 7 → LineData) (s : State) (i j : Fin 7)
    (h : j = i ∨ s.path.WaitingHold i (lines i)) :
    (State.showLine mark (lines j) s j).path.WaitingHold i (lines i) := by
  unfold Path.WaitingHold
  rw [showLine_unissued]
  rintro e he kind
  obtain ⟨x, hx, rfl⟩ := List.mem_map.1 he
  rw [mergeEntry_kind] at kind
  by_cases own : j = i
  · simp [mergeEntry, IwqEntry.isStatus, kind, own]
  · have other : x.isStatus j = false := by
      rw [IwqEntry.isStatus, kind, decide_eq_false_iff_not]
      exact fun same => own (IwqKind.status.inj same).symm
    rw [mergeEntry, if_neg (by simp [other])]
    exact h.resolve_left own x hx kind

/-- Once all of some lines have been shown, each of them is, and what waits holds their bytes. -/
theorem showLines_shown (mark : Bool) (lines : Fin 7 → LineData) (i : Fin 7) (l : List (Fin 7)) (s : State)
    (h : i ∈ l ∨ ((mark = true → s.Shown i) ∧ s.path.WaitingHold i (lines i))) :
    let t := l.foldl (fun t j => State.showLine mark (lines j) t j) s
    (mark = true → t.Shown i) ∧ t.path.WaitingHold i (lines i) := by
  induction l generalizing s with
  | nil => exact h.resolve_left (by simp)
  | cons j l ih =>
    refine ih (State.showLine mark (lines j) s j) ?_
    obtain own | later | ⟨shown, hold⟩ : j = i ∨ i ∈ l ∨ ((mark = true → s.Shown i) ∧ s.path.WaitingHold i (lines i)) := by
      simpa [eq_comm, or_assoc] using h
    · subst own
      refine .inr ⟨?_, showLine_waitingHold mark lines s j j (.inl rfl)⟩
      rintro rfl
      exact showLine_shown _ s j
    · exact .inl later
    · exact .inr ⟨fun m => (shown m).showLine mark _ j, showLine_waitingHold mark lines s i j (.inr hold)⟩

/-- The bookkeeping of a command between started states shows every line that has changed (R157). -/
theorem settleWith_shown {mark : Bool} {s u : State} {i : Fin 7} (before : s.started = true) (after : u.started = true)
    (changed : s.statusLine i ≠ u.statusLine i) :
    (mark = true → (settleWith mark s u).Shown i) ∧ (settleWith mark s u).path.WaitingHold i (u.statusLine i) := by
  rw [settleWith, before, after, Bool.and_self, if_pos rfl]
  exact showLines_shown mark u.statusLine i _ u (.inl (by simp [changedLines, changed]))

/-- A command but RESET does its changes and then the bookkeeping, which sets no mark only where an IWQ write fails or
where nothing shown has changed (R157). -/
theorem exec_settles {c : Instr} {s t : State} (h : exec c s = .next t) (notReset : c ≠ .reset) :
    ∃ mark u, t = settleWith mark s u ∧ (mark = true ∨ c = .iwqWriteAnswer .error ∨ c = .memoryTimeout .iwqHead ∨
      ∀ i, s.statusLine i = u.statusLine i) := by
  have committed {u : State} (h : commit s u = .next t) : ∃ mark u, t = settleWith mark s u ∧ (mark = true ∨
      c = .iwqWriteAnswer .error ∨ c = .memoryTimeout .iwqHead ∨ ∀ i, s.statusLine i = u.statusLine i) := by
    cases h
    exact ⟨true, u, rfl, .inl rfl⟩
  cases c
  case reset => exact absurd rfl notReset
  case lateAnswer =>
    cases h
    exact ⟨true, s, (settleWith_self true s).symm, .inl rfl⟩
  case memoryTimeout r =>
    cases h
    refine ⟨_, _, rfl, ?_⟩
    by_cases head : r = .iwqHead
    · exact .inr (.inr (.inl (by rw [head])))
    · exact .inl (decide_eq_true head)
  case iwqWriteAnswer a =>
    cases h
    refine ⟨_, _, rfl, ?_⟩
    cases a with
    | error => exact .inr (.inl rfl)
    | done =>
      refine .inr (.inr (.inr fun i => ?_))
      unfold State.iwqLeaves
      split <;> rfl
  all_goals exact committed h

/-- Settles O2: every arm is a state and its bookkeeping. -/
theorem everyCommandAnswersNext : Obligations.EveryCommandAnswersNext := by
  refine ⟨exec_answers, fun c s t i before after h changed => ?_⟩
  have notReset : c ≠ .reset := by
    rintro rfl
    cases h
    simp [State.started, State.doReset, State.reset] at after
  obtain ⟨mark, u, rfl, marked⟩ := exec_settles h notReset
  have follows := settleWith_follows mark s u
  have started : u.started = true := by rwa [follows.1] at after
  rw [follows.statusLine] at changed ⊢
  obtain ⟨shown, hold⟩ := settleWith_shown (mark := mark) before started changed
  have waits : (if (settleWith mark s u).path.iwqTimer = none then (settleWith mark s u).path.iwq
      else (settleWith mark s u).path.iwq.tail) = (settleWith mark s u).path.unissued := by
    unfold Path.unissued
    cases (settleWith mark s u).path.iwqTimer <;> rfl
  intro waiting
  rw [show waiting = (settleWith mark s u).path.unissued from waits]
  refine ⟨fun noWrite noTimeout => ?_, hold⟩
  obtain marked | failed | failed | same := marked
  · exact shown marked
  · exact absurd failed noWrite
  · exact absurd failed noTimeout
  · exact absurd (same i) changed

end Sys2Proof.Machine

/-! SUPPORT. The memory path: dropped writes, reads that pass through, lines of a plan, the queues' heads, answers to
read lines (R4, R5 to R11, R22 to R24, R34 to R37, R44, R135 to R137). -/

namespace Sys2Proof.Machine

open Sys2Proof

set_option Elab.async false

theorem runsTo_commit {c : Instr} {s u : State} (h : exec c s = commit s u) : RunsTo c s u :=
  ⟨settle s u, h, settle_follows s u⟩

theorem settleWith_of_same {mark : Bool} {s u : State} (h : ∀ i, s.statusLine i = u.statusLine i) :
    settleWith mark s u = u := by
  have none : changedLines s u = [] := by simp [changedLines, h]
  simp [settleWith, none]

/-- A change that sets no mark leaves the Notice writer alone (R157). -/
theorem settleWith_unmarked_notice (s u : State) : (settleWith false s u).notice = u.notice := by
  unfold settleWith
  split
  · refine List.foldlRecOn (motive := fun t : State => t.notice = u.notice) _ _ rfl fun t ht i _ => ?_
    rw [← ht]
    unfold State.showLine
    split
    · rfl
    · rfl
  · rfl

theorem modify_eq_set {α : Type} {l : List α} {i : Nat} {x : α} (h : l[i]? = some x) (f : α → α) :
    l.modify i f = l.set i (f x) := by
  simp [List.modify_eq_set_getElem?, h]

/-! ## Dropped writes (R22, R24) -/

theorem State.countDrop_eq (s : State) (reason : DropReason) (subject : Addr) :
    s.countDrop reason subject = { s with
      cmd := { s.cmd with violations := satInc s.cmd.violations, noticeMark := some s.time.uptime }
      notice := if s.cmd.noticeMark = some s.time.uptime then s.notice
        else s.notice.push (s.mkNotice .protectViolation false subject (dropCode reason)) } := by
  unfold State.countDrop
  dsimp only
  split
  next marked => rw [← marked]
  · rfl

/-- Settles O15: the two rows of R22 that drop a write. -/
theorem protectedWriteDropped : Obligations.ProtectedWriteDropped := by
  intro req s a reason started drop
  have failed : s.protectionCheck ((addressed (lineAddr req.first) req.lines).map (·.1)) = some (reason, a) := by
    rw [addressed_addrs]
    unfold State.protectionCheck
    obtain ⟨closed, rfl, found⟩ | ⟨isOpen, rfl, ⟨x, hx, protect⟩, found⟩ := drop
    · rw [found, closed]
    · have some : (((List.range req.lines.length).map fun i => nthLine (lineAddr req.first) i).find?
          fun x => decide (s.cfg.classOf x = .protect)).isSome = true :=
        List.find?_isSome.2 ⟨x, hx, decide_eq_true protect⟩
      obtain ⟨y, hy⟩ := Option.isSome_iff_exists.1 some
      obtain ⟨n, hn⟩ := Option.isSome_iff_exists.1 isOpen
      rw [hy, hn, found]
      rfl
  have dropped : s.writeArrives (lineAddr req.first) req.lines = (s.answerPsp .accept).countDrop reason a := by
    rw [State.writeArrives, if_neg (by simp [started])]
    simp only [failed]
  refine runsTo_commit ?_
  change commit s (s.writeArrives _ _) = _
  rw [dropped, State.countDrop_eq]
  rfl

/-! ## Reads that pass through (R5, R6, R19) -/

/-- A tag without a present screen resolves no line. -/
theorem State.resolveLine_of_no_screen {s : State} {tag : Tag}
    (h : ∀ i, s.cfg.tags[tag] = .scanout i → s.screen.screens[i]? = none) (a : Addr) :
    s.resolveLine tag a = (s, .pass) := by
  unfold State.resolveLine
  split
  next i bound =>
    have scanout : s.cfg.tags[tag] = .scanout i := by
      unfold State.boundScreen at bound
      split at bound
      next j class_ =>
        cases bound
        exact class_
      · cases bound
    rw [h i scanout]
  · rfl

/-- Where no line is resolved, all pass through. -/
theorem takeReadLines_pass {tag : Tag} {s : State} (h : ∀ a, s.resolveLine tag a = (s, .pass)) (l : List Addr)
    (acc : List ReadLine) :
    l.foldl (takeReadLine tag) (s, acc) = (s, acc ++ l.map fun a => s.newLine tag a .pass) := by
  induction l generalizing acc with
  | nil => simp
  | cons a l ih => simp [takeReadLine, h, ih]

/-- Settles O16. -/
theorem readAccepted : Obligations.ReadAccepted := by
  intro tag first count s started passes free
  obtain ⟨k, found, empty⟩ := Path.freeTracker_eq_some free
  refine ⟨k, empty, ?_⟩
  have resolved := takeReadLines_pass (State.resolveLine_of_no_screen passes)
    ((List.range count).map (nthLine (lineAddr first))) []
  change commit s (s.readArrives tag (lineAddr first) count) = _
  rw [State.readArrives, if_neg (by simp [started]), found]
  simp only [State.resolveRead, resolved, List.nil_append, List.map_map]
  have lines : ((fun a => s.newLine tag a .pass) ∘ nthLine (lineAddr first)) = fun i =>
      ({ addr := nthLine (lineAddr first) i, res := .pass
         st := match (s.path.pwq.filter fun e => decide (e.addr = nthLine (lineAddr first) i)).getLast? with
           | some e => .held e.seq
           | none => .ready } : ReadLine) := by
    funext i
    simp only [Function.comp, State.newLine, startState, barrierFor]
    cases (s.path.pwq.filter fun e => decide (e.addr = nthLine (lineAddr first) i)).getLast? <;> rfl
  rw [lines]
  exact commit_of_same fun _ => rfl

/-! ## Lines of a plan (R34 to R37) -/

theorem glyphLine_eq {glyphs : Vector Glyph 64} {g : Nat} {gl : Glyph} (h : glyphs[g]? = some gl) (r c : Nat) :
    glyphLine glyphs g r c =
      if r < gl.height ∧ c < gl.width then .subst (gl.base + BitVec.ofNat 32 ((r * gl.width + c) * 64)) else .fill := by
  have absent : (gl.width ≠ 0 ∧ r < gl.height ∧ c < gl.width) ↔ (r < gl.height ∧ c < gl.width) :=
    ⟨And.right, fun inside => ⟨by omega, inside⟩⟩
  simp only [glyphLine, h, absent, imageSource]

/-- Settles O18: the first active pane that holds the line, or the override. -/
theorem planLineSources : Obligations.PlanLineSources := by
  intro glyphs panes plan row col line drawn holds
  have holds_iff (q : Pane × PaneEntry) :
      (q.1.contains row col && decide (q.2 ≠ .inactive)) = true ↔ holds q := by
    simp only [Pane.contains, Bool.and_eq_true, decide_eq_true_eq, holds]
    tauto
  refine ⟨fun front p e back split first before => ?_, fun outside => ?_⟩
  · have found : findPane panes plan.entries row col = some (p, e) := by
      unfold findPane
      rw [split, List.find?_append, List.find?_eq_none.2 fun q hq => mt (holds_iff q).1 (before q hq), Option.none_or,
        List.find?_cons_of_pos (p := fun q : Pane × PaneEntry => q.1.contains row col && decide (q.2 ≠ .inactive))
          ((holds_iff (p, e)).2 first)]
    have here : line = paneLine glyphs p e row col := by
      simp only [line, planLine, found]
    refine ⟨fun g glyph gl hgl => ?_, fun tens units digits => ⟨fun left gl hgl => ?_, fun right gl hgl => ?_⟩,
      fun base caption => ?_⟩
    · rw [here, glyph]
      exact glyphLine_eq hgl _ _
    · rw [here, digits]
      exact (if_pos left).trans (glyphLine_eq hgl _ _)
    · rw [here, digits]
      exact (if_neg (Nat.not_lt.2 right)).trans (glyphLine_eq hgl _ _)
    · rw [here, caption]
      rfl
  · have none : findPane panes plan.entries row col = none :=
      List.find?_eq_none.2 fun q hq => mt (holds_iff q).1 (outside q hq)
    have here : line = overrideLine plan.override row col := by
      simp only [line, planLine, none]
    refine ⟨fun pass => ?_, fun fill => ?_, fun n slot base stride rows page => ?_⟩
    · rw [here, pass]; rfl
    · rw [here, fill]; rfl
    · rw [here, page]; rfl

/-! ## The queues' heads leave (R4, R6, R11) -/

/-- A line goes from HELD to READY behind its own barrier alone (R6). -/
theorem releaseState_eq (e : PwqEntry) (a : Addr) (st : LineState) :
    (st = .held e.seq → a = e.addr → releaseState e a st = .ready) ∧
    ((∀ b, st = .held b → b ≠ e.seq ∨ a ≠ e.addr) → releaseState e a st = st) := by
  refine ⟨?_, fun other => ?_⟩
  · rintro rfl rfl
    simp [releaseState]
  · unfold releaseState
    split
    next b =>
      have : ¬ (b = e.seq ∧ a = e.addr) := fun both => (other b rfl).elim (· both.1) (· both.2)
      rw [if_neg this]
    · rfl

/-- Settles O20. -/
theorem queueHeadsLeave : Obligations.QueueHeadsLeave := by
  refine ⟨fun s e rest n queue timer => ?_, fun e l => ⟨fun held source => ?_, fun other => ?_, ?_⟩,
    fun e l => ⟨fun held addr => ?_, fun other => ?_⟩, fun s e rest n queue timer => ?_⟩
  · intro p
    have popped : s.path.popPwq e = p := by
      simp only [Path.popPwq, Path.releaseAll, queue, List.tail_cons, p]
    refine ⟨?_, runsTo_commit ?_⟩
    · change commit s (s.pwqLeaves true) = _
      simp only [State.pwqLeaves, queue, timer, if_true, popped]
      exact commit_of_same fun _ => rfl
    · change commit s (s.pwqLeaves false) = _
      simp only [State.pwqLeaves, queue, timer, popped]
      rfl
  · exact congrArg (fun st => ({ l with st := st } : ReadLine)) ((releaseState_eq e l.source l.st).1 held source)
  · exact congrArg (fun st => ({ l with st := st } : ReadLine)) ((releaseState_eq e l.source l.st).2 other)
  · unfold ReadLine.source
    cases l.res <;> rfl
  · exact congrArg (fun st => ({ l with st := st } : OwnLine)) ((releaseState_eq e l.addr l.st).1 held addr)
  · exact congrArg (fun st => ({ l with st := st } : OwnLine)) ((releaseState_eq e l.addr l.st).2 other)
  · have leaves (ok : Bool) : s.iwqLeaves ok = if ok then { s with path := { s.path with iwq := rest, iwqTimer := none } }
        else State.countMemFault { s with path := { s.path with iwq := rest, iwqTimer := none } } := by
      simp only [State.iwqLeaves, queue, timer]
    refine ⟨?_, _, rfl, ?_, ?_⟩
    · change Host.Outcome.next (settleWith false s (s.iwqLeaves true)) = _
      exact congrArg _ ((congrArg _ (leaves true)).trans (settleWith_of_same fun _ => rfl))
    · rw [show WriteAnswer.ok .error = false from rfl, leaves, settleWith_unmarked_notice]
      rfl
    · change StatusFollows _ (settleWith false s (s.iwqLeaves false))
      rw [leaves]
      exact settleWith_follows false s _

/-! ## Answers to read lines (R7 to R9, R44) -/

/-- A tracker's line that is there takes a state. -/
theorem Tracker.setLine_eq {t : Tracker} {l : Nat} {q : ReadLine} (h : t.lines[l]? = some q) (st : LineState) :
    t.setLine l st = { t with lines := t.lines.set l { q with st := st } } := by
  rw [Tracker.setLine, modify_eq_set h]

/-- What ERROR does to an ISSUED line, by its resolution (R8). -/
theorem State.lineFails_eq {s : State} {k : Fin 8} {l : Nat} {t : Tracker} {q : ReadLine} {n : Nat}
    (tracker : s.path.trackers[k] = some t) (line : t.lines[l]? = some q) (issued : q.st = .issued n) :
    (q.res = .pass → s.lineFails k l = (s.setTracker k (t.fail l)).countMemFault) ∧
    ∀ b, q.res = .subst b →
      s.lineFails k l = (s.setTracker k (t.setLine l (.arrived (s.fillOf t.tag)))).sourceFault t.tag b := by
  have issued : q.st.isIssued = true := by rw [issued]; rfl
  refine ⟨fun pass => ?_, fun b subst => ?_⟩
  · simp only [State.lineFails, tracker, line, issued, if_true, pass]
  · simp only [State.lineFails, tracker, line, issued, if_true, subst]

/-- A screen whose substituted line has failed: counted, and marked in its plan (R44). -/
def Screen.sourceFaulted (sc : Screen) : Screen :=
  { sc with srcFault := satInc sc.srcFault, plan := sc.plan.map fun p => { p with faultMark := true } }

theorem State.sourceFault_of_none {s : State} {tag : Tag} (b : Addr) (h : s.boundScreen tag = none) :
    s.sourceFault tag b = s := by
  simp only [State.sourceFault, h]

/-- A failed substituted line is counted and marked at the screen that its tag is bound to (R44). -/
theorem State.sourceFault_of_screen {s : State} {tag : Tag} {i : Nat} {sc : Screen} (b : Addr)
    (h : s.boundScreen tag = some i) (present : s.screen.screens[i]? = some sc) :
    s.sourceFault tag b = { s with
      screen := { s.screen with screens := s.screen.screens.set i (sc.sourceFaulted) }
      notice := (s.sourceFaultNotices i sc b).foldl NoticeUnit.push s.notice } := by
  simp only [State.sourceFault, h, present, State.modScreen]
  rw [show (s.handAll (s.sourceFaultNotices i sc b)).screen.screens = s.screen.screens from rfl, modify_eq_set present]
  rfl

/-- A source fault changes the screens and the Notice writer alone. -/
theorem State.sourceFault_only (s : State) (tag : Tag) (b : Addr) :
    s.sourceFault tag b = { s with
      screen := { s.screen with screens := (s.sourceFault tag b).screen.screens }
      notice := (s.sourceFault tag b).notice } := by
  unfold State.sourceFault
  split
  · split
    · rfl
    · rfl
  · rfl

/-- Settles O23. -/
theorem lineFails : Obligations.LineFails := by
  intro s k l t q n tracker line issued
  obtain ⟨pass, subst⟩ := State.lineFails_eq tracker line issued
  refine ⟨fun h => runsTo_commit ?_, fun b h => ?_⟩
  · change commit s (s.lineFails k l.val) = _
    rw [pass h, Tracker.fail, Tracker.setLine_eq line]
    rfl
  · let u := s.setTracker k { t with lines := t.lines.set l.val { q with st := .arrived (s.fillOf t.tag) } }
    have failed : s.lineFails k l.val = u.sourceFault t.tag b := by rw [subst b h, Tracker.setLine_eq line]
    have follows := settle_follows s (s.lineFails k l.val)
    refine ⟨settle s (s.lineFails k l.val), rfl, ?_, fun unbound => ?_, fun i sc bound present => ?_⟩
    · rw [follows.1, failed, u.sourceFault_only]
      rfl
    · rw [follows.1, failed, State.sourceFault_of_none (s := u) b unbound]
      exact ⟨rfl, rfl⟩
    · rw [follows.1, failed, State.sourceFault_of_screen (s := u) b bound present]
      refine ⟨rfl, ?_⟩
      unfold NoticesHanded State.sourceFaultNotices
      cases sc.plan with
      | none => rfl
      | some p => rfl

/-- Settles O25. -/
theorem ownLineAnswered : Obligations.OwnLineAnswered := by
  intro s k l lines q n d own line issued others
  have issued : q.st.isIssued = true := by rw [issued]; rfl
  have inFlight (st : LineState) : ((lines.set l.val { q with st := st }).any fun r => r.st.inFlight) = true := by
    obtain ⟨j, r, ne, found, flying⟩ := others
    exact List.any_eq_true.2 ⟨r, List.mem_of_getElem? ((List.getElem?_set_ne ne.symm).trans found), flying⟩
  constructor
  · change commit s (s.ownLineAnswer k l.val (some d)) = _
    simp only [State.ownLineAnswer, own, line, issued, if_true, State.setOwn, modify_eq_set line, inFlight]
    exact commit_of_same fun _ => rfl
  · refine runsTo_commit ?_
    change commit s (s.ownLineAnswer k l.val none) = _
    simp only [State.ownLineAnswer, own, line, issued, if_true, State.setOwn, modify_eq_set line, inFlight]
    rfl

/-! ## Complete reads (R9) -/

theorem Path.earlierRead_iff (p : Path) (t : Tracker) :
    p.earlierRead t = true ↔ ∃ (j : Fin 8) (u : Tracker), p.trackers[j] = some u ∧ u.tag = t.tag ∧ u.seq < t.seq := by
  unfold Path.earlierRead
  rw [List.any_eq_true]
  constructor
  · rintro ⟨o, mem, earlier⟩
    obtain ⟨i, hi, rfl⟩ := List.getElem_of_mem mem
    cases u : p.trackers[i]'(by simpa using hi) with
    | none => simp [u] at earlier
    | some u' => exact ⟨⟨i, by simpa using hi⟩, u', u, by simpa [u] using earlier⟩
  · rintro ⟨j, u, tracker, tag, earlier⟩
    exact ⟨some u, tracker ▸ Vector.mem_toList_iff.2 (Vector.getElem_mem j.isLt), by simp [tag, earlier]⟩

/-- Settles O24: by the two tests of an answer. -/
theorem readAnswered : Obligations.ReadAnswered := by
  intro s k t tracker first
  have answered (h : t.complete = true) (g : first) : exec (.readAnswer k) s = .next (State.answerPsp
      { s with path := { s.path with trackers := s.path.trackers.set k none } } t.answer) := by
    have earliest : s.path.earlierRead t = false := by
      by_contra earlier
      obtain ⟨j, u, found, tag, lt⟩ := (s.path.earlierRead_iff t).1 (by simpa using earlier)
      exact absurd (g j u found tag) (by omega)
    change commit s (s.answerRead k) = _
    simp only [State.answerRead, tracker, h, earliest, Bool.not_false, Bool.and_self, if_true]
    exact commit_of_same fun _ => rfl
  refine ⟨fun g failed idle => ?_, fun ds g failed arrived => ?_, fun waits => ?_⟩
  · have complete : t.complete = true := by
      simp only [Tracker.complete, failed, if_true, List.all_eq_true]
      intro q hq
      cases st : q.st with
      | issued n => exact absurd st (idle q hq n)
      | held | ready | arrived | failed | dropped => rfl
    rw [answered complete g, Tracker.answer, failed]
    rfl
  · have lines : t.lines.map ReadLine.arrivedData = ds.map some := by
      have := congrArg (List.map fun st : LineState => match st with
        | .arrived d => some d
        | _ => none) arrived
      rw [List.map_map, List.map_map] at this
      exact this
    have complete : t.complete = true := by
      simp only [Tracker.complete, failed, Bool.false_eq_true, if_false, List.all_eq_true]
      intro q hq
      have : q.st ∈ t.lines.map ReadLine.st := List.mem_map_of_mem hq
      rw [arrived] at this
      obtain ⟨d, -, st⟩ := List.mem_map.1 this
      rw [← st]
      rfl
    have data : t.lines.filterMap ReadLine.arrivedData = ds := by
      have data := List.filterMap_map (f := ReadLine.arrivedData) (g := id) (l := t.lines)
      rw [lines] at data
      simpa using data.symm
    rw [answered complete g, Tracker.answer, failed, data]
    rfl
  · have not : (t.complete && !s.path.earlierRead t) = false := by
      rw [Bool.and_eq_false_iff, Bool.not_eq_false']
      obtain later | ⟨q, hq, n, issued⟩ | ⟨good, q, hq, flying⟩ := waits
      · obtain ⟨j, u, found, tag, earlier⟩ : ∃ (j : Fin 8) (u : Tracker), s.path.trackers[j] = some u ∧ u.tag = t.tag ∧
            u.seq < t.seq := by
          simpa [first] using later
        exact .inr ((s.path.earlierRead_iff t).2 ⟨j, u, found, tag, earlier⟩)
      · left
        unfold Tracker.complete
        split
        · exact List.all_eq_false.2 ⟨q, hq, by simp [issued, LineState.isIssued]⟩
        · exact List.all_eq_false.2 ⟨q, hq, by simp [issued, LineState.isArrived]⟩
      · left
        rw [Tracker.complete, if_neg (by simp [good])]
        refine List.all_eq_false.2 ⟨q, hq, ?_⟩
        cases st : q.st with
        | arrived d => rw [st] at flying; cases flying
        | held | ready | issued | failed | dropped => simp [LineState.isArrived]
    change commit s (s.answerRead k) = _
    simp only [State.answerRead, tracker, not]
    exact commit_self s

end Sys2Proof.Machine

/-! SUPPORT. Corridor reads: the rewritten records and the observed refreshes (R135 to R138, R143, R145). -/

namespace Sys2Proof.Machine

open Sys2Proof

set_option Elab.async false

/-! ## Rewritten records (R135 to R137) -/

/-- A record is rewritten in no byte of the other half of its line. -/
theorem State.rewriteCabin_outside (s : State) (i o : Nat) (d : LineData) (j : Fin 64) (h : j.val < o ∨ o + 32 ≤ j.val) :
    (s.rewriteCabin i o d)[j] = d[j] := by
  unfold State.rewriteCabin
  split
  · split
    · simp only [rewriteRecord, Fin.getElem_fin, Vector.getElem_ofFn]
      rw [if_neg (by omega), if_neg (by omega), if_neg (by omega)]
    · rfl
  · rfl

/-- What a record's rewriting gives at a byte depends on that byte alone. -/
theorem State.rewriteCabin_congr (s : State) (i o : Nat) {d e : LineData} {j : Fin 64} (h : d[j] = e[j]) :
    (s.rewriteCabin i o d)[j] = (s.rewriteCabin i o e)[j] := by
  unfold State.rewriteCabin
  split
  · split
    · simp only [Fin.getElem_fin] at h
      simp only [rewriteRecord, Fin.getElem_fin, Vector.getElem_ofFn, h]
    · exact h
  · exact h

/-- Each half of a rewritten line is its own record's rewriting. -/
theorem State.rewriteCabinLine_half (s : State) (k : Nat) (d : LineData) (half : Fin 2) (j : Fin 64)
    (low : 32 * half.val ≤ j.val) (high : j.val < 32 * half.val + 32) :
    (s.rewriteCabinLine k d)[j] = (s.rewriteCabin (2 * k + half.val) (32 * half.val) d)[j] := by
  unfold State.rewriteCabinLine
  match half with
  | 0 => exact s.rewriteCabin_outside _ _ _ j (.inl high)
  | 1 => exact s.rewriteCabin_congr _ _ (s.rewriteCabin_outside _ _ _ j (.inr low))

theorem State.rewriteCabin_same {s : State} {i : Nat} (o : Nat) (d : LineData)
    (h : s.cabin.cabins[i]? = none ∨ outsideNormal s.muster.state = false) : s.rewriteCabin i o d = d := by
  unfold State.rewriteCabin
  obtain absent | normal := h
  · rw [absent]
  · split
    · rw [if_neg (by simp [normal])]
    · rfl

theorem State.rewriteCabin_present {s : State} {i : Nat} {c : Cabin} (o : Nat) (d : LineData)
    (present : s.cabin.cabins[i]? = some c) (outside : outsideNormal s.muster.state = true) :
    s.rewriteCabin i o d = rewriteRecord d o (bannerCode s.muster.state) (byteOf (s.shownStation c.home)) := by
  rw [State.rewriteCabin, present]
  exact if_pos outside

/-- The two flags are cleared, and the other six bits stand (R137). -/
theorem clearFlags (x : Byte) :
    (x &&& 0xFC).extractLsb' 0 2 = 0 ∧ (x &&& 0xFC).extractLsb' 2 6 = x.extractLsb' 2 6 := by
  constructor
  · rw [BitVec.extractLsb'_and]
    exact BitVec.and_zero
  · rw [BitVec.extractLsb'_and]
    exact BitVec.and_allOnes

/-- Settles O22: each half by whether its cabin is present and by the muster state. -/
theorem cabinRecordRewritten : Obligations.CabinRecordRewritten := by
  intro s k d half r o same
  have unchanged (h : s.cabin.cabins[2 * k + half.val]? = none ∨ outsideNormal s.muster.state = false) : same := by
    intro j low high
    rw [s.rewriteCabinLine_half k d half j low high, State.rewriteCabin_same _ d h]
  refine ⟨fun beyond => unchanged (.inl (List.getElem?_eq_none beyond)), fun c present => ⟨fun normal => ?_, ?_⟩⟩
  · exact unchanged (.inr (by rw [normal]; rfl))
  · rintro st banner state code
    have outside : outsideNormal s.muster.state = true := by
      rw [state]
      obtain ⟨rfl, -⟩ | ⟨rfl, -⟩ | ⟨rfl, -⟩ := code <;> rfl
    have shown : bannerCode s.muster.state = banner := by
      rw [state]
      obtain ⟨rfl, rfl⟩ | ⟨rfl, rfl⟩ | ⟨rfl, rfl⟩ := code <;> rfl
    have fits : o ≤ 32 := by simp only [o]; omega
    have record (j : Fin 64) (low : o ≤ j.val) (high : j.val < o + 32) :
        r[j] = (rewriteRecord d o banner (byteOf (s.shownStation c.home)))[j] := by
      rw [s.rewriteCabinLine_half k d half j low high, State.rewriteCabin_present _ d present outside, shown]
    have byte (n : Nat) (h : n < 32) : vecByte r (o + n) =
        (rewriteRecord d o banner (byteOf (s.shownStation c.home)))[o + n]'(by omega) := by
      rw [vecByte_of_lt r (show o + n < 64 by omega)]
      exact record ⟨o + n, by omega⟩ (Nat.le_add_right o n) (by simpa using h)
    have flags : vecByte r o = vecByte d o &&& 0xFC := by
      have := byte 0 (by decide)
      rw [vecByte_of_lt d (show o < 64 by omega)]
      simpa [rewriteRecord] using this
    have station : vecByte r (o + 3) = byteOf (s.shownStation c.home) := by simpa [rewriteRecord] using byte 3 (by decide)
    refine ⟨fun j low high first second third => ?_, ?_, ?_, ?_, fun e shows => ?_, fun shows => ?_⟩
    · rw [record j low high]
      simp [rewriteRecord, first, second, third]
    · rw [flags]
      exact (clearFlags _).1
    · rw [flags]
      exact (clearFlags _).2
    · simpa [rewriteRecord] using byte 2 (by decide)
    · rw [station, shownStation_eq, shows]
      simp only [byteOf, Option.map_some, Option.getD_some, BitVec.toNat_ofNat]
      omega
    · rw [station, shownStation_eq, shows]
      rfl

/-! ## The notices of one moment (R143, R144) -/

/-- A cabin after the notices of one moment (R143). -/
def Cabin.told (now : Word) (c : Cabin) : Cabin := if c.due now then { c with notified := true } else c

theorem Cabin.told_eq (now : Word) (c : Cabin) : c.told now =
    { c with notified := c.notified || decide (c.pend ≠ .none ∧ c.eligible.toNat ≤ now.toNat) } := by
  unfold Cabin.told Cabin.due
  cases flag : c.notified with
  | true =>
    rw [if_neg (by simp)]
    cases c
    simpa using flag
  | false =>
    split
    next due =>
      have : c.pend ≠ .none ∧ c.eligible.toNat ≤ now.toNat := by simpa using due
      simp [this]
    next late =>
      have : ¬ (c.pend ≠ .none ∧ c.eligible.toNat ≤ now.toNat) := by simpa using late
      cases c
      simpa [this] using flag

theorem State.notifyCabins_eq (s : State) : s.notifyCabins = { s with
    cabin := { s.cabin with cabins := s.cabin.cabins.map (Cabin.told s.time.uptime) }
    notice := s.dueNotices.foldl NoticeUnit.push s.notice } := rfl

/-- The cabin `d` takes part in the notices of a moment as one that was `c` before it: its notified flag is clear if it
was so, or if its class has risen to URGENT (R141). -/
def Cabin.FlagFrom (c d : Cabin) : Prop :=
  d.notified = false ↔ c.notified = false ∨ (c.pend = .routine ∧ d.pend = .urgent)

theorem Cabin.FlagFrom.of_same {c d : Cabin} (pend : d.pend = c.pend) (flag : d.notified = c.notified) : c.FlagFrom d := by
  unfold Cabin.FlagFrom
  rw [pend, flag]
  refine ⟨.inl, fun h => h.elim id ?_⟩
  rintro ⟨routine, urgent⟩
  rw [routine] at urgent
  cases urgent

/-- The notices that are due are those of the moment since `s`. -/
theorem State.dueNotices_eq {s u : State} (h : ∀ i d, i ∈ u.cabin.pend → u.cabin.cabins[i]? = some d → d.pend ≠ .none →
    ∃ c, s.cabin.cabins[i]? = some c ∧ c.FlagFrom d) : u.dueNotices = cabinNotices s u.notifyCabins := by
  unfold State.dueNotices cabinNotices
  refine List.filterMap_congr fun i hi => ?_
  have told : u.notifyCabins.cabin.cabins[i]? = (u.cabin.cabins[i]?).map (Cabin.told u.time.uptime) := by
    rw [State.notifyCabins_eq]
    exact List.getElem?_map
  rw [told]
  cases found : u.cabin.cabins[i]? with
  | none => cases s.cabin.cabins[i]? <;> rfl
  | some d =>
    have due_iff : d.due u.time.uptime = true ↔
        (d.pend ≠ .none ∧ d.eligible.toNat ≤ u.time.uptime.toNat) ∧ d.notified = false := by
      simp [Cabin.due, and_assoc]
    simp only [Option.map_some, Cabin.told_eq]
    by_cases pend : d.pend = .none
    · cases s.cabin.cabins[i]? <;> simp [Cabin.due, pend]
    · obtain ⟨c, before, flag⟩ := h i d hi found pend
      have same : (d.pend ≠ .none ∧ d.eligible.toNat ≤ u.notifyCabins.time.uptime.toNat ∧
          (c.notified = false ∨ (c.pend = .routine ∧ d.pend = .urgent))) ↔ d.due u.time.uptime = true := by
        rw [due_iff, show u.notifyCabins.time = u.time from rfl, and_assoc, ← show _ ↔ _ from flag]
      simp only [before, same]
      rfl

/-! ## Observed refreshes (R138, R143, R145) -/

theorem eligibleAfter_toNat {last : Word} {interval : Nat} (h : last.toNat + interval < 4294967296) :
    (eligibleAfter last interval).toNat = last.toNat + interval := by
  rw [eligibleAfter, if_pos h, BitVec.toNat_ofNat]
  exact Nat.mod_eq_of_lt h

/-- A complete refresh takes the cabin out of the pending set. -/
theorem CabinUnit.place_of_none (u : CabinUnit) (i : Nat) {c : Cabin} (h : c.pend = .none) :
    u.place i c = { u with cabins := u.cabins.set i c, pend := u.pend.filter fun j => decide (j ≠ i) } := by
  simp only [CabinUnit.place, h, if_true]

theorem Cabin.completeFor_iff (c : Cabin) (seq : Nat) :
    c.completeFor seq = true ↔ ∀ w, c.lastWrite = some w → w < seq := by
  unfold Cabin.completeFor
  cases c.lastWrite <;> simp

/-- An observed refresh is as `RefreshObserved` says, and changes nothing but the Cabin unit and the notices. -/
theorem State.observeRefresh_observed (s : State) (i seq : Nat) :
    ∃ ns, RefreshObserved s seq i s.cabin (s.observeRefresh i seq).cabin ns ∧
      s.observeRefresh i seq = { s with
        cabin := (s.observeRefresh i seq).cabin, notice := ns.foldl NoticeUnit.push s.notice } := by
  cases found : s.cabin.cabins[i]? with
  | none =>
    have same : s.observeRefresh i seq = s := by rw [State.observeRefresh, found]
    exact ⟨[], ⟨fun _ => ⟨by rw [same], rfl⟩, fun c present => by rw [found] at present; cases present⟩, by rw [same]; rfl⟩
  | some c =>
    have refreshed : s.observeRefresh i seq = s.refreshCabin i seq c := by rw [State.observeRefresh, found]
    rw [refreshed]
    by_cases complete : c.completeFor seq = true
    · let refreshed : Cabin := { c with lastRefresh := s.time.uptime, pend := .none, notified := false }
      have placed : s.refreshCabin i seq c = { s with cabin := s.cabin.place i refreshed } := if_pos complete
      rw [placed]
      refine ⟨[], ⟨fun absent => ?_, fun d present => ⟨fun _ => ?_, fun ⟨w, write, later⟩ => ?_⟩⟩, rfl⟩
      · rw [found] at absent
        cases absent
      · obtain rfl := Option.some_inj.1 (found.symm.trans present)
        exact ⟨rfl, CabinUnit.place_of_none _ i rfl⟩
      · obtain rfl := Option.some_inj.1 (found.symm.trans present)
        exact absurd ((c.completeFor_iff seq).1 complete w write) (by omega)
    · let waiting : Cabin := { c with
        lastRefresh := s.time.uptime, pend := .routine, notified := false
        eligible := eligibleAfter s.time.uptime s.cfg.timing.refreshSeconds }
      let u : State := { s with cabin := s.cabin.place i waiting }
      have placed : s.refreshCabin i seq c = u.notifyCabins := if_neg complete
      have inside : i < s.cabin.cabins.length := (List.getElem?_eq_some_iff.1 found).1
      have cabins : u.notifyCabins.cabin.cabins = (s.cabin.cabins.set i waiting).map (Cabin.told s.time.uptime) := rfl
      have pend (j : Nat) : j ∈ u.notifyCabins.cabin.pend ↔ (j = i ∧ waiting.pend ≠ .none) ∨ (j ≠ i ∧ j ∈ s.cabin.pend) :=
        CabinUnit.mem_place (u := s.cabin) (c := waiting)
      rw [placed]
      refine ⟨u.dueNotices, ⟨fun absent => ?_, fun d present => ⟨fun earlier => ?_, fun _ => ?_⟩⟩, rfl⟩
      · rw [found] at absent
        cases absent
      · obtain rfl := Option.some_inj.1 (found.symm.trans present)
        exact absurd ((c.completeFor_iff seq).2 earlier) complete
      · obtain rfl := Option.some_inj.1 (found.symm.trans present)
        refine ⟨⟨eligibleAfter s.time.uptime s.cfg.timing.refreshSeconds, eligibleAfter_toNat, ?_⟩, ?_, fun j d ne other => ?_,
          ?_, fun j ne => ?_, rfl, ?_⟩
        · rw [cabins, List.getElem?_map, List.getElem?_set_self inside, Option.map_some, Cabin.told_eq]
          simp [waiting]
        · rw [cabins, List.length_map, List.length_set]
        · rw [cabins, List.getElem?_map, List.getElem?_set_ne ne.symm, other, Option.map_some, Cabin.told_eq]
        · exact (pend i).2 (.inl ⟨rfl, by simp [waiting]⟩)
        · exact (pend j).trans (by simp [ne])
        · refine State.dueNotices_eq (s := { s with cabin := { s.cabin with
            cabins := s.cabin.cabins.set i { c with notified := false } } }) fun j d _ after _ => ?_
          by_cases own : j = i
          · subst own
            rw [show u.cabin.cabins[j]? = some waiting from List.getElem?_set_self inside] at after
            obtain rfl := Option.some_inj.1 after
            exact ⟨_, List.getElem?_set_self inside, by simp [Cabin.FlagFrom, waiting]⟩
          · have same : u.cabin.cabins[j]? = s.cabin.cabins[j]? := List.getElem?_set_ne (Ne.symm own)
            exact ⟨d, (List.getElem?_set_ne (Ne.symm own)).trans (same.symm.trans after), .of_same rfl rfl⟩

theorem RefreshObserved.of_same {s s' : State} {seq i : Nat} {u v : CabinUnit} {ns : List Notice}
    (h : RefreshObserved s' seq i u v ns) (time : s'.time = s.time) (cfg : s'.cfg = s.cfg) (muster : s'.muster = s.muster) :
    RefreshObserved s seq i u v ns := by
  cases s
  cases s'
  dsimp only at time cfg muster
  subst time cfg muster
  exact h

/-- An observed refresh leaves every other cabin but for its notified flag. -/
theorem RefreshObserved.others {s : State} {seq i : Nat} {u v : CabinUnit} {ns : List Notice}
    (h : RefreshObserved s seq i u v ns) {j : Nat} {x : Cabin} (ne : j ≠ i) (present : u.cabins[j]? = some x) :
    ∃ y, v.cabins[j]? = some y ∧ y = { x with notified := y.notified } := by
  obtain ⟨absent, refreshed⟩ := h
  cases found : u.cabins[i]? with
  | none =>
    obtain ⟨rfl, -⟩ := absent found
    exact ⟨x, present, rfl⟩
  | some c =>
    obtain ⟨complete, incomplete⟩ := refreshed c found
    by_cases written : ∃ w, c.lastWrite = some w ∧ seq ≤ w
    · obtain ⟨-, -, others, -⟩ := incomplete written
      exact ⟨_, others j x ne present, rfl⟩
    · have earlier : ∀ w, c.lastWrite = some w → w < seq := fun w write => by
        by_contra late
        exact written ⟨w, write, not_lt.1 late⟩
      obtain ⟨-, rfl⟩ := complete earlier
      exact ⟨x, (List.getElem?_set_ne ne.symm).trans present, rfl⟩

theorem RefreshObserved.badHome {s : State} {seq i : Nat} {u v : CabinUnit} {ns : List Notice}
    (h : RefreshObserved s seq i u v ns) : v.badHome = u.badHome := by
  obtain ⟨absent, refreshed⟩ := h
  cases found : u.cabins[i]? with
  | none =>
    obtain ⟨rfl, -⟩ := absent found
    rfl
  | some c =>
    obtain ⟨complete, incomplete⟩ := refreshed c found
    by_cases written : ∃ w, c.lastWrite = some w ∧ seq ≤ w
    · obtain ⟨-, -, -, -, -, same, -⟩ := incomplete written
      exact same
    · have earlier : ∀ w, c.lastWrite = some w → w < seq := fun w write => by
        by_contra late
        exact written ⟨w, write, not_lt.1 late⟩
      obtain ⟨-, rfl⟩ := complete earlier
      rfl

/-- The line that memory answers with data is the one that the tracker holds as ISSUED (R7). -/
theorem State.lineData_eq {s : State} {k : Fin 8} {l : Nat} {t : Tracker} {q : ReadLine} {n : Nat} (d : LineData)
    (tracker : s.path.trackers[k] = some t) (line : t.lines[l]? = some q) (issued : q.st = .issued n) :
    s.lineData k l d =
      match s.cabinLineOf t.tag q.addr with
      | some c => (s.setTracker k { t with lines := t.lines.set l { q with
          st := .arrived (s.rewriteCabinLine c d) } }).observeLine c t.seq
      | none => s.setTracker k { t with lines := t.lines.set l { q with st := .arrived d } } := by
  have issued : q.st.isIssued = true := by rw [issued]; rfl
  simp only [State.lineData, tracker, line, issued, if_true, Tracker.setLine_eq line] <;> rfl

/-- Settles O21: a line that is not rewritten, and one that is. -/
theorem linesArrive : Obligations.LinesArrive := by
  refine ⟨fun s k l d t q n tracker line issued plain => ?_, fun s k l d t q n c tracker line issued corridor cabin index => ?_⟩
  · have none : s.cabinLineOf t.tag q.addr = none := by
      rw [State.cabinLineOf, if_neg]
      rintro ⟨corridor, cabin⟩
      exact plain.elim (· corridor) (· cabin)
    change commit s (s.lineData k l.val d) = _
    rw [State.lineData_eq d tracker line issued, none]
    exact commit_of_same fun _ => rfl
  · have some : s.cabinLineOf t.tag q.addr = some c := by
      rw [State.cabinLineOf, if_pos ⟨corridor, cabin⟩, index]
    let arrived := s.setTracker k { t with lines := t.lines.set l.val { q with
      st := .arrived (s.rewriteCabinLine c d) } }
    obtain ⟨ns, first, eq⟩ := arrived.observeRefresh_observed (2 * c) t.seq
    obtain ⟨ns', second, eq'⟩ := (arrived.observeRefresh (2 * c) t.seq).observeRefresh_observed (2 * c + 1) t.seq
    have both : s.lineData k l.val d = { arrived with
        cabin := ((arrived.observeRefresh (2 * c) t.seq).observeRefresh (2 * c + 1) t.seq).cabin
        notice := (ns ++ ns').foldl NoticeUnit.push s.notice } := by
      rw [State.lineData_eq d tracker line issued, some]
      change arrived.observeLine c t.seq = _
      rw [State.observeLine, eq', eq, List.foldl_append]
      rfl
    have second : RefreshObserved s t.seq (2 * c + 1) (arrived.observeRefresh (2 * c) t.seq).cabin
        ((arrived.observeRefresh (2 * c) t.seq).observeRefresh (2 * c + 1) t.seq).cabin ns' :=
      second.of_same (by rw [eq]; rfl) (by rw [eq]; rfl) (by rw [eq]; rfl)
    have follows := settle_follows s (s.lineData k l.val d)
    refine ⟨settle s (s.lineData k l.val d), (arrived.observeRefresh (2 * c) t.seq).cabin, ns, ns', rfl, ?_⟩
    rw [follows.1, both]
    refine ⟨rfl, first, second, rfl, fun i x ne present => ?_, ?_, rfl, rfl, rfl, rfl, rfl, rfl, rfl, rfl, rfl, rfl, rfl⟩
    · obtain ⟨y, hy, flag⟩ := first.others (by omega) present
      obtain ⟨z, hz, flag'⟩ := second.others (by omega) hy
      exact ⟨z, hz, by rw [flag', flag]⟩
    · exact second.badHome.trans first.badHome

end Sys2Proof.Machine

/-! SUPPORT. The arbiter: what has work, which source a ring picks, and what a grant issues (R13, R14). -/

namespace Sys2Proof.Machine

open Sys2Proof

set_option Elab.async false

/-! ## The fixed cycle (R14) -/

/-- A source's number in the fixed cycle. -/
def Source.number : Source → Nat
  | .scanout => 0
  | .otherReads => 1
  | .pwqHead => 2
  | .own => 3

/-- How far a source stands after the last-granted one in the fixed cycle. -/
def Source.turn (last : Option Source) (c : Source) : Nat :=
  match last with
  | some l => (c.number + 3 - l.number) % 4
  | none => c.number

theorem cycleAfter_ordered (last : Option Source) : (cycleAfter last).Pairwise fun a b => Source.turn last a < Source.turn last b := by
  cases last with
  | none => decide
  | some l => cases l <;> decide

theorem mem_cycleAfter (last : Option Source) (c : Source) : c ∈ cycleAfter last := by
  cases last with
  | none => cases c <;> decide
  | some l => cases l <;> cases c <;> decide

/-- The pick of a ring is the one with work whose turn comes first. -/
theorem cycleAfter_find {last : Option Source} {p : Source → Bool} {c : Source} (hc : p c = true)
    (first : ∀ d, p d = true → Source.turn last c ≤ Source.turn last d) : (cycleAfter last).find? p = some c := by
  obtain ⟨front, back, split⟩ := List.append_of_mem (mem_cycleAfter last c)
  have ordered := cycleAfter_ordered last
  rw [split] at ordered ⊢
  have before : ∀ x ∈ front, ¬ p x = true := fun x hx px => by
    have := (List.pairwise_append.1 ordered).2.2 x hx c List.mem_cons_self
    exact absurd (first x px) (by omega)
  rw [List.find?_append, List.find?_eq_none.2 before, Option.none_or, List.find?_cons_of_pos hc]

/-! ## Work (R13) -/

theorem LineState.isReady_iff (st : LineState) : st.isReady = true ↔ st = .ready := by
  cases st <;> simp [LineState.isReady]

theorem State.isScanout_iff (s : State) (tag : Tag) : s.isScanout tag = true ↔ ∃ i, s.cfg.tags[tag] = .scanout i := by
  unfold State.isScanout State.boundScreen
  split
  next i h => simp [h]
  next h => simpa using h

/-- A busy tracker of a class has a line that waits (R13). -/
theorem State.mem_readyTrackers {s : State} {scanout : Bool} {k : Fin 8} {t : Tracker} :
    (k, t) ∈ s.readyTrackers scanout ↔
      s.path.trackers[k] = some t ∧ s.isScanout t.tag = scanout ∧ ∃ q ∈ t.lines, q.st = .ready := by
  unfold State.readyTrackers
  simp only [List.mem_filterMap, List.mem_finRange, true_and]
  constructor
  · rintro ⟨i, hi⟩
    split at hi
    next u found =>
      split at hi
      next work =>
        cases hi
        exact ⟨found, work.1, by simpa [LineState.isReady_iff] using work.2⟩
      · cases hi
    · cases hi
  · rintro ⟨found, class_, waits⟩
    refine ⟨k, ?_⟩
    rw [found]
    exact if_pos ⟨class_, by simpa [LineState.isReady_iff] using waits⟩

theorem Path.ownTrackerReady_iff (p : Path) (k : Fin 2) :
    p.ownTrackerReady k = true ↔ ∃ lines, p.own[k] = some lines ∧ ∃ q ∈ lines, q.st = .ready := by
  unfold Path.ownTrackerReady
  cases h : p.own[k] with
  | none => simp
  | some lines => simp [LineState.isReady_iff]

theorem Path.ownReady_iff (p : Path) : p.ownReady = true ↔ ∃ k, p.ownTrackerReady k = true := by
  unfold Path.ownReady
  rw [List.any_eq_true]
  constructor
  · rintro ⟨o, mem, ready⟩
    obtain ⟨i, hi, rfl⟩ := List.getElem_of_mem mem
    exact ⟨⟨i, by simpa using hi⟩, ready⟩
  · rintro ⟨k, ready⟩
    exact ⟨p.own[k], Vector.mem_toList_iff.2 (Vector.getElem_mem k.isLt), ready⟩

theorem Path.iwqOffered_iff (p : Path) : p.iwqOffered = true ↔ p.iwq ≠ [] ∧ p.iwqTimer = none := by
  simp [Path.iwqOffered]

theorem Path.pwqOffered_iff (p : Path) : p.pwqOffered = true ↔ p.pwq ≠ [] ∧ p.pwqTimer = none := by
  simp [Path.pwqOffered]

theorem State.readyTrackers_ne_nil (s : State) (scanout : Bool) : s.readyTrackers scanout ≠ [] ↔
    ∃ (k : Fin 8) (t : Tracker), s.path.trackers[k] = some t ∧ s.isScanout t.tag = scanout ∧ ∃ q ∈ t.lines, q.st = .ready := by
  constructor
  · intro some_
    obtain ⟨⟨k, t⟩, mem⟩ := List.exists_mem_of_ne_nil _ some_
    exact ⟨k, t, State.mem_readyTrackers.1 mem⟩
  · rintro ⟨k, t, work⟩
    exact List.ne_nil_of_mem (State.mem_readyTrackers.2 work)

/-! ## The oldest tracker and the lowest line (R13) -/

theorem oldestTracker_mem {l : List (Fin 8 × Tracker)} {q : Fin 8 × Tracker} (h : oldestTracker l = some q) : q ∈ l := by
  induction l generalizing q with
  | nil => cases h
  | cons r rest ih =>
    unfold oldestTracker at h
    split at h
    next m oldest =>
      split at h
      · exact .tail r (ih (Option.some_inj.1 h ▸ oldest))
      · exact Option.some_inj.1 h ▸ List.mem_cons_self
    · exact Option.some_inj.1 h ▸ List.mem_cons_self

theorem oldestTracker_eq {l : List (Fin 8 × Tracker)} {q : Fin 8 × Tracker} (mem : q ∈ l)
    (oldest : ∀ r ∈ l, r ≠ q → q.2.seq < r.2.seq) : oldestTracker l = some q := by
  induction l with
  | nil => cases mem
  | cons r rest ih =>
    unfold oldestTracker
    by_cases own : r = q
    · subst own
      split
      next m found =>
        have : ¬ m.2.seq < r.2.seq := fun lt => by
          by_cases same : m = r
          · exact absurd (same ▸ lt) (lt_irrefl _)
          · exact absurd (oldest m (.tail r (oldestTracker_mem found)) same) (by omega)
        rw [if_neg this]
      · rfl
    · have inRest : q ∈ rest := (List.mem_cons.1 mem).resolve_left fun h => own h.symm
      rw [ih inRest fun x hx => oldest x (.tail r hx)]
      exact if_pos (oldest r List.mem_cons_self own)

/-- The lowest line that stands, or one of the rest that lies below it. -/
theorem foldl_lowest {l : List (Nat × Addr)} {m q : Nat × Addr} (mem : q = m ∨ q ∈ l)
    (lowest : ∀ r, r = m ∨ r ∈ l → r ≠ q → q.2.toNat < r.2.toNat) :
    l.foldl (fun m r => if r.2.toNat < m.2.toNat then r else m) m = q := by
  induction l generalizing m with
  | nil => exact (mem.resolve_right (by simp)).symm
  | cons r rest ih =>
    rw [List.foldl_cons]
    by_cases below : r.2.toNat < m.2.toNat
    · rw [if_pos below]
      refine ih ?_ fun x hx => lowest x (.inr (List.mem_cons.2 hx))
      obtain rfl | hq := mem
      · by_cases same : r = q
        · exact .inl same.symm
        · exact absurd (lowest r (.inr List.mem_cons_self) same) (by omega)
      · exact List.mem_cons.1 hq
    · rw [if_neg below]
      refine ih ?_ fun x hx => lowest x (hx.imp_right (.tail r))
      obtain rfl | hq := mem
      · exact .inl rfl
      · obtain rfl | hq := List.mem_cons.1 hq
        · by_cases same : m = q
          · exact .inl same.symm
          · exact absurd (lowest m (.inl rfl) same) below
        · exact .inr hq

theorem lowestLine_eq {l : List (Nat × Addr)} {q : Nat × Addr} (mem : q ∈ l)
    (lowest : ∀ r ∈ l, r ≠ q → q.2.toNat < r.2.toNat) : lowestLine l = some q.1 := by
  cases l with
  | nil => cases mem
  | cons r rest =>
    have found : rest.foldl (fun m r => if r.2.toNat < m.2.toNat then r else m) r = q :=
      foldl_lowest (List.mem_cons.1 mem) fun x hx => lowest x (List.mem_cons.2 hx)
    simp only [lowestLine, found]

/-- Numbering the lines that satisfy a test: line `i` of them is among the found. -/
theorem mem_numbered {α : Type} {lines : List α} {f : Nat → Option (Nat × Addr)} {i : Nat} {a : Addr} {p : α → Prop}
    (of_line : ∀ j q, lines[j]? = some q → (f j = some (i, a) ↔ j = i ∧ p q)) :
    (i, a) ∈ (List.range lines.length).filterMap f ↔ ∃ q, lines[i]? = some q ∧ p q := by
  simp only [List.mem_filterMap, List.mem_range]
  constructor
  · rintro ⟨j, hj, found⟩
    have line := List.getElem?_eq_getElem hj
    obtain ⟨rfl, holds⟩ := (of_line j _ line).1 found
    exact ⟨_, line, holds⟩
  · rintro ⟨q, line, holds⟩
    exact ⟨i, (List.getElem?_eq_some_iff.1 line).1, (of_line i q line).2 ⟨rfl, holds⟩⟩

theorem Tracker.mem_readyLines {t : Tracker} {i : Nat} {a : Addr} :
    (i, a) ∈ t.readyLines ↔ ∃ q, t.lines[i]? = some q ∧ q.st = .ready ∧ q.addr = a := by
  refine mem_numbered fun j q line => ?_
  simp only [line, ← LineState.isReady_iff]
  split <;> simp_all

theorem mem_ownReadyLines {l : List OwnLine} {i : Nat} {a : Addr} :
    (i, a) ∈ ownReadyLines l ↔ ∃ q, l[i]? = some q ∧ q.st = .ready ∧ q.addr = a := by
  refine mem_numbered fun j q line => ?_
  simp only [line, ← LineState.isReady_iff]
  split <;> simp_all

theorem lineRef_val (l : Fin 4) : lineRef l.val = l := Fin.ext (Nat.mod_eq_of_lt l.isLt)

/-! ## What a grant issues (R3, R11, R13) -/

/-- A grant to reads issues the lowest READY line of the oldest tracker of the class (R13). -/
theorem State.issueRead_eq {s : State} {scanout : Bool} {k : Fin 8} {t : Tracker} {l : Fin 4} {q : ReadLine}
    (tracker : s.path.trackers[k] = some t) (class_ : s.isScanout t.tag = scanout)
    (line : t.lines[l.val]? = some q) (ready : q.st = .ready)
    (oldest : ∀ (j : Fin 8) (u : Tracker), j ≠ k → s.path.trackers[j] = some u → s.isScanout u.tag = scanout →
      (∃ r ∈ u.lines, r.st = .ready) → t.seq < u.seq)
    (lowest : ∀ (m : Nat) (r : ReadLine), m ≠ l.val → t.lines[m]? = some r → r.st = .ready →
      q.addr.toNat < r.addr.toNat) :
    s.issueRead scanout = (s.setTracker k (t.setLine l.val (.issued 0))).issueMsp (.read (.readLine k l) q.source) := by
  have first : oldestTracker (s.readyTrackers scanout) = some (k, t) := by
    refine oldestTracker_eq (State.mem_readyTrackers.2 ⟨tracker, class_, q, List.mem_of_getElem? line, ready⟩) ?_
    rintro ⟨j, u⟩ mem other
    obtain ⟨found, sameClass, waits⟩ := State.mem_readyTrackers.1 mem
    refine oldest j u (fun h => ?_) found sameClass waits
    subst h
    exact other (by rw [Option.some_inj.1 (found.symm.trans tracker)])
  have below : lowestLine t.readyLines = some l.val := by
    refine lowestLine_eq (q := (l.val, q.addr)) (Tracker.mem_readyLines.2 ⟨q, line, ready, rfl⟩) ?_
    rintro ⟨m, a⟩ mem other
    obtain ⟨r, found, waits, rfl⟩ := Tracker.mem_readyLines.1 mem
    refine lowest m r (fun h => ?_) found waits
    subst h
    exact other (by rw [Option.some_inj.1 (found.symm.trans line)])
  simp only [State.issueRead, first, below, line, lineRef_val]

/-- A grant to an own read issues its lowest READY line (R13). -/
theorem State.issueOwnLine_eq {s : State} {k : Fin 2} {lines : List OwnLine} {l : Fin 4} {q : OwnLine}
    (read : s.path.own[k] = some lines) (line : lines[l.val]? = some q) (ready : q.st = .ready)
    (lowest : ∀ (m : Nat) (r : OwnLine), m ≠ l.val → lines[m]? = some r → r.st = .ready →
      q.addr.toNat < r.addr.toNat) :
    s.issueOwnLine k = State.issueMsp { s with path := { s.path with
        own := s.path.own.set k (some (lines.set l.val { q with st := .issued 0 })), iwqNext := true } }
      (.read (.ownLine k l) q.addr) := by
  have below : lowestLine (ownReadyLines lines) = some l.val := by
    refine lowestLine_eq (q := (l.val, q.addr)) (mem_ownReadyLines.2 ⟨q, line, ready, rfl⟩) ?_
    rintro ⟨m, a⟩ mem other
    obtain ⟨r, found, waits, rfl⟩ := mem_ownReadyLines.1 mem
    refine lowest m r (fun h => ?_) found waits
    subst h
    exact other (by rw [Option.some_inj.1 (found.symm.trans line)])
  simp only [State.issueOwnLine, read, below, line, lineRef_val, modify_eq_set line]

theorem State.issuePwq_eq {s : State} {e : PwqEntry} {rest : List PwqEntry} (head : s.path.pwq = e :: rest) :
    s.issuePwq = State.issueMsp { s with path := { s.path with pwqTimer := some 0 } }
      (.write .pwqHead e.addr e.data e.en) := by
  unfold State.issuePwq
  split
  next f tail_ at_head =>
    rw [head] at at_head
    cases at_head
    rfl
  next none_ => exact absurd (head.symm.trans none_) nofun

/-- What a grant can change: the request at the MSP, and what is outstanding. -/
def State.IssuedFrom (s t : State) : Prop :=
  t = { s with port := t.port, path := { s.path with
    pwqTimer := t.path.pwqTimer, iwqTimer := t.path.iwqTimer, trackers := t.path.trackers
    own := t.path.own, iwqNext := t.path.iwqNext } }

theorem State.issueRead_issues (s : State) (scanout : Bool) : s.IssuedFrom (s.issueRead scanout) := by
  unfold State.issueRead
  split
  · split
    · split <;> rfl
    · rfl
  · rfl

theorem State.issueOwnLine_issues (s : State) (k : Fin 2) : s.IssuedFrom (s.issueOwnLine k) := by
  unfold State.issueOwnLine
  split
  · split
    · split <;> rfl
    · rfl
  · rfl

theorem State.issuePwq_issues (s : State) : s.IssuedFrom s.issuePwq := by
  unfold State.issuePwq
  split <;> rfl

theorem State.issueIwq_issues (s : State) : s.IssuedFrom s.issueIwq := by
  unfold State.issueIwq
  split <;> rfl

theorem State.issueFrom_issues (s : State) (c : Source) : s.IssuedFrom (s.issueFrom c) := by
  cases c with
  | scanout => exact s.issueRead_issues true
  | otherReads => exact s.issueRead_issues false
  | pwqHead => exact s.issuePwq_issues
  | own =>
    simp only [State.issueFrom, State.issueOwn]
    split
    · exact s.issueIwq_issues
    · split
      · exact s.issueOwnLine_issues 0
      · exact s.issueOwnLine_issues 1

/-- No line of the status block shows what a grant changes. -/
theorem State.IssuedFrom.statusLine {s t : State} (h : s.IssuedFrom t) (i : Fin 7) : s.statusLine i = t.statusLine i := by
  rw [h]
  rfl

/-- A grant is noted beside the queues and the reads (R14). -/
theorem Path.noteGrant_same (p : Path) (high : Bool) (c : Source) :
    (p.noteGrant high c).trackers = p.trackers ∧ (p.noteGrant high c).pwq = p.pwq ∧
    (p.noteGrant high c).iwq = p.iwq ∧ (p.noteGrant high c).iwqTimer = p.iwqTimer ∧
    (p.noteGrant high c).own = p.own ∧ (p.noteGrant high c).iwqNext = p.iwqNext := by
  cases high <;> exact ⟨rfl, rfl, rfl, rfl, rfl, rfl⟩

/-- The state in which a granted source's request is issued (R14). -/
def State.granting (s : State) (high : Bool) (c : Source) : State := { s with path := s.path.noteGrant high c }

theorem State.granting_statusLine (s : State) (high : Bool) (c : Source) (i : Fin 7) :
    s.statusLine i = (s.granting high c).statusLine i := by
  cases high <;> rfl

theorem execArbiterGrant_eq {s : State} {high : Bool} {c : Source} (h : s.arbitrate = some (high, c)) :
    exec .arbiterGrant s = .next ((s.granting high c).issueFrom c) := by
  have given : s.grant = (s.granting high c).issueFrom c := by
    simp only [State.grant, h, State.granting]
  show commit s s.grant = _
  rw [given]
  exact commit_of_same fun i =>
    (s.granting_statusLine high c i).trans (((s.granting high c).issueFrom_issues c).statusLine i)

theorem execArbiterGrant_idle {s : State} (h : s.arbitrate = none) : exec .arbiterGrant s = .next s := by
  show commit s s.grant = _
  rw [State.grant, h]
  exact commit_self s

/-! ## What the arbiter grants (R14) -/

/-- Whether a source has work, as R13 says it. -/
def State.Works (s : State) (c : Source) : Prop :=
  match c with
  | .scanout => ∃ (k : Fin 8) (t : Tracker), s.path.trackers[k] = some t ∧ (∃ i, s.cfg.tags[t.tag] = .scanout i) ∧
      ∃ q ∈ t.lines, q.st = .ready
  | .otherReads => ∃ (k : Fin 8) (t : Tracker), s.path.trackers[k] = some t ∧ (¬ ∃ i, s.cfg.tags[t.tag] = .scanout i) ∧
      ∃ q ∈ t.lines, q.st = .ready
  | .pwqHead => s.path.pwq ≠ [] ∧ s.path.pwqTimer = none
  | .own => (s.path.iwq ≠ [] ∧ s.path.iwqTimer = none) ∨
      ∃ k : Fin 2, ∃ lines, s.path.own[k] = some lines ∧ ∃ q ∈ lines, q.st = .ready

theorem State.hasWork_iff (s : State) (c : Source) : s.hasWork c = true ↔ s.Works c := by
  cases c with
  | scanout => simp only [State.hasWork, State.Works, decide_eq_true_iff, State.readyTrackers_ne_nil, State.isScanout_iff]
  | otherReads =>
    simp only [State.hasWork, State.Works, decide_eq_true_iff, State.readyTrackers_ne_nil, ← State.isScanout_iff,
      Bool.not_eq_true]
  | pwqHead => exact s.path.pwqOffered_iff
  | own =>
    simp only [State.hasWork, State.Works, Bool.or_eq_true, Path.iwqOffered_iff, Path.ownReady_iff,
      Path.ownTrackerReady_iff]

/-- The ring in which a source stands, as R13 says it. -/
theorem State.inHighRing_iff (s : State) (high : Bool) (c : Source) : s.inHighRing c = high ↔
    (high = true ↔ c = .scanout ∨ (c = .own ∧
      (s.muster.state = .drill ∨ s.muster.state = .muster ∨ s.muster.state = .standdown))) := by
  cases c with
  | scanout | otherReads | pwqHead => cases high <;> simp [State.inHighRing]
  | own =>
    rw [← outsideNormal_iff]
    cases high <;> simp [State.inHighRing]

theorem State.ringPick_eq {s : State} {high : Bool} {last pick : Option Source}
    (is_last : (if high then s.path.lastHigh else s.path.lastLow) = last)
    (idle : pick = none → ∀ c, s.inHighRing c = high → ¬ s.Works c)
    (first : ∀ c, pick = some c → s.inHighRing c = high ∧ s.Works c ∧
      ∀ d, s.inHighRing d = high → s.Works d → Source.turn last c ≤ Source.turn last d) :
    s.ringPick high = pick := by
  rw [State.ringPick, is_last]
  cases pick with
  | none =>
    refine List.find?_eq_none.2 fun c _ work => ?_
    rw [Bool.and_eq_true, decide_eq_true_iff, State.hasWork_iff] at work
    exact idle rfl c work.1 work.2
  | some c =>
    obtain ⟨ring, work, least⟩ := first c rfl
    refine cycleAfter_find ?_ fun d hd => ?_
    · rw [Bool.and_eq_true, decide_eq_true_iff, State.hasWork_iff]
      exact ⟨ring, work⟩
    · rw [Bool.and_eq_true, decide_eq_true_iff, State.hasWork_iff] at hd
      exact least d hd.1 hd.2

theorem State.ringPick_none {s : State} {high : Bool} (idle : ∀ c, s.inHighRing c = high → ¬ s.Works c) :
    s.ringPick high = none :=
  State.ringPick_eq rfl (fun _ => idle) nofun

/-- The own source issues the IWQ head where its turn has come, or no own read has a line that waits (R13). -/
theorem State.issueOwn_iwq {s : State} {e : IwqEntry} {rest : List IwqEntry} (head : s.path.iwq = e :: rest)
    (offered : s.path.iwqTimer = none)
    (turn : s.path.iwqNext = true ∨ ∀ k : Fin 2, ¬ ∃ lines, s.path.own[k] = some lines ∧ ∃ q ∈ lines, q.st = .ready) :
    s.issueOwn = State.issueMsp { s with path := { s.path with iwqTimer := some 0, iwqNext := false } }
      (.write .iwqHead e.addr e.data e.en) := by
  have offered : s.path.iwqOffered = true := s.path.iwqOffered_iff.2 ⟨by rw [head]; nofun, offered⟩
  have turn : (s.path.iwqNext || !s.path.ownReady) = true := by
    obtain next | none_ := turn
    · rw [next, Bool.true_or]
    · have idle : ¬ s.path.ownReady = true := by
        rw [Path.ownReady_iff]
        rintro ⟨k, waits⟩
        exact none_ k ((s.path.ownTrackerReady_iff k).1 waits)
      simp [Bool.eq_false_iff.2 idle]
  rw [State.issueOwn, offered, turn]
  unfold State.issueIwq
  split
  · split
    next f tail_ at_head =>
      rw [head] at at_head
      cases at_head
      rfl
    next none_ => exact absurd (head.symm.trans none_) nofun
  next no => exact absurd rfl no

/-- The own source issues a line of an own read where the IWQ head does not go before it (R13). -/
theorem State.issueOwn_line {s : State} {k : Fin 2}
    (turn : ¬ (s.path.iwq ≠ [] ∧ s.path.iwqTimer = none) ∨ s.path.iwqNext = false)
    (waits : ∃ lines, s.path.own[k] = some lines ∧ ∃ q ∈ lines, q.st = .ready)
    (first : k = 0 ∨ ¬ ∃ lines, s.path.own[(0 : Fin 2)] = some lines ∧ ∃ q ∈ lines, q.st = .ready) :
    s.issueOwn = s.issueOwnLine k := by
  have ready : s.path.ownTrackerReady k = true := (s.path.ownTrackerReady_iff k).2 waits
  have turn : ¬ (s.path.iwqOffered && (s.path.iwqNext || !s.path.ownReady)) = true := by
    have own : s.path.ownReady = true := s.path.ownReady_iff.2 ⟨k, ready⟩
    rw [← Path.iwqOffered_iff] at turn
    obtain none_ | later := turn
    · simp [Bool.eq_false_iff.2 none_]
    · simp [later, own]
  rw [State.issueOwn, if_neg turn]
  obtain rfl | none_ := first
  · rw [if_pos ready]
  · rw [← Path.ownTrackerReady_iff] at none_
    rw [if_neg none_]
    match k with
    | 0 => exact absurd ready none_
    | 1 => rfl

/-- Settles O19. -/
theorem arbiterGrants : Obligations.ArbiterGrants := by
  refine ⟨?_, ?_⟩
  · intro s high low scanning waits ownWaits iwqWaits inRing works number turn picks isHigh isLow granted
    have works_eq : works = s.Works := funext fun c => by cases c <;> rfl
    have turn_eq : turn = Source.turn := by
      funext last c
      cases last with
      | none => cases c <;> rfl
      | some l => cases l <;> cases c <;> rfl
    have ring_eq : ∀ b c, inRing b c ↔ s.inHighRing c = b := fun b c => (s.inHighRing_iff b c).symm
    have pick_eq : ∀ b last pick, (if b = true then s.path.lastHigh else s.path.lastLow) = last → picks b last pick →
        s.ringPick b = pick := fun b last pick is_last h =>
      State.ringPick_eq is_last (fun none_ c ring => works_eq ▸ h.1 none_ c ((ring_eq b c).2 ring)) fun c some_ => by
        obtain ⟨ring, work, least⟩ := h.2 c some_
        exact ⟨(ring_eq b c).1 ring, works_eq ▸ work, fun d ring' work' =>
          turn_eq ▸ least d ((ring_eq b d).2 ring') (works_eq.symm ▸ work')⟩
    have granted_eq : s.arbitrate = granted := by
      have high_eq := pick_eq true _ high rfl isHigh
      have low_eq := pick_eq false _ low rfl isLow
      subst high_eq low_eq
      exact rfl
    refine ⟨fun none_ => execArbiterGrant_idle (granted_eq.trans none_), ?_⟩
    intro isHigh c some_ p issues
    have issued := execArbiterGrant_eq (granted_eq.trans some_)
    have frame := (s.granting isHigh c).issueFrom_issues c
    obtain ⟨trackers, pwq, iwq, iwqTimer, own, next⟩ := s.path.noteGrant_same isHigh c
    refine ⟨⟨_, issued, frame⟩, ?_, ?_, ?_, ?_⟩
    · intro k t l q class_ tracker line ready oldest lowest
      have reads : ∀ scanout, (s.isScanout t.tag = scanout) →
          (s.granting isHigh c).issueRead scanout =
            { s with path := { p with trackers := s.path.trackers.set k (some
                { t with lines := t.lines.set l.val { q with st := .issued 0 } }) }
                     port := { s.port with msp := some (.read (.readLine k l) q.source) } } := by
        intro scanout ofClass
        have at_ (j : Fin 8) : (s.granting isHigh c).path.trackers[j] = s.path.trackers[j] := congrArg (fun v => v[j]) trackers
        have older (j : Fin 8) (u : Tracker) (other : j ≠ k) (found : (s.granting isHigh c).path.trackers[j] = some u)
            (same : s.isScanout u.tag = scanout) (waiting : ∃ r ∈ u.lines, r.st = .ready) : t.seq < u.seq := by
          refine oldest j u other ((at_ j).symm.trans found) ?_ waiting
          exact (s.isScanout_iff u.tag).symm.trans ((iff_of_eq (by rw [ofClass, same])).trans (s.isScanout_iff t.tag))
        rw [State.issueRead_eq (s := s.granting isHigh c) ((at_ k).trans tracker) ofClass line ready older lowest,
          Tracker.setLine_eq line, ← trackers]
        rfl
      have source : q.source = (match q.res with
          | .subst b => b
          | .pass | .fill => q.addr) := by
        unfold ReadLine.source
        cases q.res <;> rfl
      rw [source] at reads
      obtain ⟨rfl, scans⟩ | ⟨rfl, other⟩ := class_
      · exact issued.trans (congrArg Host.Outcome.next (reads true ((s.isScanout_iff t.tag).2 scans)))
      · exact issued.trans (congrArg Host.Outcome.next (reads false
          (Bool.eq_false_iff.2 fun h => other ((s.isScanout_iff t.tag).1 h))))
    · rintro e rest rfl head
      refine issued.trans (congrArg Host.Outcome.next ?_)
      exact State.issuePwq_eq (s := s.granting isHigh .pwqHead) (pwq.trans head)
    · rintro e rest rfl head ⟨-, offered⟩ turn
      refine issued.trans (congrArg Host.Outcome.next ?_)
      exact State.issueOwn_iwq (s := s.granting isHigh .own) (iwq.trans head) (iwqTimer.trans offered)
        (by rw [State.granting, next, own]; exact turn)
    · rintro k lines l q rfl turn first read line ready lowest
      refine issued.trans (congrArg Host.Outcome.next ?_)
      have read' : (s.granting isHigh .own).path.own[k] = some lines := (congrArg (fun o => o[k]) own).trans read
      have turns := State.issueOwn_line (s := s.granting isHigh .own) (k := k)
        (by rw [State.granting, next, iwq, iwqTimer]; exact turn)
        ⟨lines, read', q, List.mem_of_getElem? line, ready⟩ (by rw [State.granting, own]; exact first)
      rw [State.issueFrom, turns, State.issueOwnLine_eq read' line ready lowest, ← own]
      rfl
  · intro s e rest head offered only
    have none_ : s.ringPick true = none := State.ringPick_none fun c ring work => by
      cases only c ((s.hasWork_iff c).2 work)
      cases ring
    have works : s.hasWork .pwqHead = true := s.path.pwqOffered_iff.2 ⟨by rw [head]; nofun, offered⟩
    have pick : s.ringPick false = some .pwqHead := cycleAfter_find (by simp [works, State.inHighRing]) fun d hd => by
      rw [only d (Bool.and_eq_true _ _ ▸ hd).2]
    have granted : s.arbitrate = some (false, .pwqHead) := by rw [State.arbitrate, none_, pick]
    refine (execArbiterGrant_eq granted).trans (congrArg Host.Outcome.next ?_)
    exact State.issuePwq_eq (s := s.granting false .pwqHead) head

end Sys2Proof.Machine

/-! SUPPORT. Writes of the host's tables and of the ring descriptor: acceptance of a line at its window, the
test of the head index, and what the consumer of each table takes from its line (R87, R116 to R124, R133,
R134, R155). -/

namespace Sys2Proof.Machine

open Sys2Proof

set_option Elab.async false

/-! ## A line of a window (R2, R16, R20) -/

theorem nthLine_toNat {base : Addr} {k n : Nat} (inside : k < n) (fits : base.toNat + 64 * n ≤ 4294967296) :
    (nthLine base k).toNat = base.toNat + 64 * k := by
  rw [nthLine, BitVec.toNat_add, BitVec.toNat_ofNat]
  omega

/-- Line `k` of a window has that number in it (R16). -/
theorem indexIn_nthLine {v : Window} {k : Nat} (inside : k < v.lines) (fits : v.base.toNat + 64 * v.lines ≤ 4294967296) :
    indexIn (some v) (nthLine v.base k) = k := by
  show ((nthLine v.base k).toNat - v.base.toNat) / 64 = k
  rw [nthLine_toNat inside fits]
  omega

/-- An unprotected line that finds room is accepted and delivered (R2, R20). -/
theorem State.writeArrives_line {s : State} {a : Addr} (w : WriteLine) (started : s.started = true)
    (plain : s.cfg.classOf a ≠ .protect) (room : s.path.pwq.length < 32) :
    s.writeArrives a [w] = (s.accepted [(a, w)]).deliverLine s.path.seq a w := by
  have lines : addressed a [w] = [(a, w)] := by simp [addressed, nthLine]
  have check : s.protectionCheck [a] = none := protectionCheck_none (by simpa using plain)
  have free : ¬ s.path.pwqFree < 1 := by
    simp only [Path.pwqFree, Config.pwqSize]
    omega
  simp only [State.writeArrives, started, lines, List.map_cons, List.map_nil, check, List.length_singleton, free,
    Bool.true_eq_false, if_false]
  rfl

/-- A line of a table's window is accepted and delivered (R16, R20). -/
theorem State.windowWrite_line {s : State} {v : Window} {k : Nat} (w : WriteLine) (started : s.started = true)
    (inside : k < v.lines) (plain : s.cfg.classOf (nthLine v.base k) ≠ .protect) (room : s.path.pwq.length < 32) :
    s.windowWrite (some v) k w =
      (s.accepted [(nthLine v.base k, w)]).deliverLine s.path.seq (nthLine v.base k) w := by
  simp only [State.windowWrite, started, Bool.true_eq_false, if_false, if_pos inside]
  exact State.writeArrives_line w started plain room

theorem State.deliverLine_control {s : State} {a : Addr} (h : s.cfg.classOf a = .control) (seq : Nat) (w : WriteLine) :
    s.deliverLine seq a w = s.deliverControl (indexIn s.cfg.controlWindow a) w := by
  simp only [State.deliverLine, h]

theorem State.deliverLine_segment {s : State} {a : Addr} (h : s.cfg.classOf a = .segment) (seq : Nat) (w : WriteLine) :
    s.deliverLine seq a w =
      (s.touchScan .segments (indexIn s.cfg.segment a) w.en).deliverSegments (indexIn s.cfg.segment a) w := by
  simp only [State.deliverLine, h]

theorem State.deliverLine_programme {s : State} {a : Addr} (h : s.cfg.classOf a = .programme) (seq : Nat) (w : WriteLine) :
    s.deliverLine seq a w =
      (s.touchScan .programme (indexIn s.cfg.programme a) w.en).deliverProgramme (indexIn s.cfg.programme a) w := by
  simp only [State.deliverLine, h]

theorem State.deliverLine_cabin {s : State} {a : Addr} (h : s.cfg.classOf a = .cabin) (seq : Nat) (w : WriteLine) :
    s.deliverLine seq a w =
      (s.touchScan .cabins (indexIn s.cfg.cabin a) w.en).deliverCabin (indexIn s.cfg.cabin a) w seq := by
  simp only [State.deliverLine, h]

/-- A line of a table is accepted, and touches the rescan of that table (R2, R128). -/
def State.tableLine (s : State) (v : Window) (table : ScanTable) (k : Nat) (w : WriteLine) : State :=
  (s.accepted [(nthLine v.base k, w)]).touchScan table k w.en

theorem execSegmentStatusWrite_eq {s : State} {v : Window} {k : Fin 4} (tag : Tag) (w : WriteLine)
    (started : s.started = true) (window : s.cfg.segment = some v) (inside : k.val < v.lines)
    (fits : v.base.toNat + 64 * v.lines ≤ 4294967296) (class_ : s.cfg.classOf (nthLine v.base k.val) = .segment)
    (room : s.path.pwq.length < 32) :
    exec (.segmentStatusWrite tag k w) s = commit s ((s.tableLine v .segments k.val w).deliverSegments k.val w) := by
  show commit s (s.windowWrite s.cfg.segment k.val w) = _
  rw [window, State.windowWrite_line w started inside (by rw [class_]; decide) room,
    State.deliverLine_segment (s := s.accepted _) class_]
  change commit s ((State.touchScan _ _ (indexIn s.cfg.segment _) _).deliverSegments (indexIn s.cfg.segment _) w) = _
  rw [window, indexIn_nthLine inside fits]
  rfl

theorem execProgrammeLineWrite_eq {s : State} {v : Window} {k : Fin 128} (tag : Tag) (w : WriteLine)
    (started : s.started = true) (window : s.cfg.programme = some v) (inside : k.val < v.lines)
    (fits : v.base.toNat + 64 * v.lines ≤ 4294967296) (class_ : s.cfg.classOf (nthLine v.base k.val) = .programme)
    (room : s.path.pwq.length < 32) :
    exec (.programmeLineWrite tag k w) s = commit s ((s.tableLine v .programme k.val w).deliverProgramme k.val w) := by
  show commit s (s.windowWrite s.cfg.programme k.val w) = _
  rw [window, State.windowWrite_line w started inside (by rw [class_]; decide) room,
    State.deliverLine_programme (s := s.accepted _) class_]
  change commit s ((State.touchScan _ _ (indexIn s.cfg.programme _) _).deliverProgramme (indexIn s.cfg.programme _) w) = _
  rw [window, indexIn_nthLine inside fits]
  rfl

theorem execCabinRecordWrite_eq {s : State} {v : Window} {k : Fin 256} (tag : Tag) (w : WriteLine)
    (started : s.started = true) (window : s.cfg.cabin = some v) (inside : k.val < v.lines)
    (fits : v.base.toNat + 64 * v.lines ≤ 4294967296) (class_ : s.cfg.classOf (nthLine v.base k.val) = .cabin)
    (room : s.path.pwq.length < 32) :
    exec (.cabinRecordWrite tag k w) s = commit s ((s.tableLine v .cabins k.val w).deliverCabin k.val w s.path.seq) := by
  show commit s (s.windowWrite s.cfg.cabin k.val w) = _
  rw [window, State.windowWrite_line w started inside (by rw [class_]; decide) room,
    State.deliverLine_cabin (s := s.accepted _) class_]
  change commit s ((State.touchScan _ _ (indexIn s.cfg.cabin _) _).deliverCabin (indexIn s.cfg.cabin _) w _) = _
  rw [window, indexIn_nthLine inside fits]
  rfl

/-! ## The head index (R155) -/

/-- The descriptor's copy after a write of the head index. -/
theorem headLine_merge (desc : Vector Byte 10) (head : BitVec 16) (low high : Bool) (i : Fin 10) :
    (mergeBytes desc 0 (headLine head low high))[i] =
      if i.val = 8 ∧ low = true then head.extractLsb' 0 8
      else if i.val = 9 ∧ high = true then head.extractLsb' 8 8
      else desc[i] := by
  obtain ⟨i, hi⟩ := i
  have h64 : i < 64 := by omega
  simp only [mergeBytes, headLine, Fin.getElem_fin, Vector.getElem_ofFn, Nat.zero_add, vecByte,
    Vector.getElem?_eq_getElem h64, Option.getD_some, lineAt]
  by_cases h8 : i = 8
  · subst h8; cases low <;> simp [bytes16]
  · by_cases h9 : i = 9
    · subst h9; cases high <;> simp [bytes16]
    · simp [h8, h9]

theorem headLine_tested (head : BitVec 16) (low high : Bool) :
    anyEnabled (headLine head low high).en 8 2 = (low || high) := by
  simp [anyEnabled, headLine, List.range_succ]

theorem NoticeUnit.keepUrgent_eq (u : NoticeUnit) :
    u.keepUrgent = u.urgent.filter fun j => decide (u.ahead j < u.unread) := by
  unfold NoticeUnit.keepUrgent
  cases u.urgent with
  | none => rfl
  | some j => simp [Option.filter]

theorem NoticeUnit.testHead_eq (u : NoticeUnit) : u.testHead =
    if u.headValid u.descHead then
      NoticeUnit.evalIrq { u with
        head := u.descHead, urgent := u.urgent.filter fun j => decide (NoticeUnit.ahead { u with head := u.descHead } j < NoticeUnit.unread { u with head := u.descHead }) }
    else { u with badHead := min (u.badHead + 1) 65535 } := by
  rw [NoticeUnit.testHead]
  dsimp only
  rw [NoticeUnit.keepUrgent_eq]
  rfl

/-- The second line of the control block holds the ring descriptor (R16, R21). -/
theorem classOf_descriptor {c : Decoder} {base : Addr} (control : c.control = some base)
    (fits : base.toNat + 4096 ≤ 4294967296) :
    c.classOf (nthLine base 1) = .control ∧ indexIn c.controlWindow (nthLine base 1) = 1 := by
  have place : (nthLine base 1).toNat = base.toNat + 64 := nthLine_toNat (n := 64) (by decide) (by omega)
  have window : c.controlWindow = some { base := base, lines := 64 } := by rw [Decoder.controlWindow, control]; rfl
  refine ⟨?_, by rw [window]; exact indexIn_nthLine (by decide : 1 < 64) fits⟩
  rw [Decoder.classOf, window, if_pos]
  simp [coveredBy, Window.covers, place]

/-- Settles O29: the copy takes the bytes, and the head index in it is tested. -/
theorem headIndexTested : Obligations.HeadIndexTested := by
  intro tag head low high s base started control fits room u byte8 byte9 h back valid tested v
  obtain ⟨class_, line⟩ := classOf_descriptor control fits
  generalize desc_eq : mergeBytes s.notice.desc 0 (headLine head low high) = desc
  have copy (i : Fin 10) : desc[i] = if i.val = 8 ∧ low = true then head.extractLsb' 0 8
      else if i.val = 9 ∧ high = true then head.extractLsb' 8 8 else s.notice.desc[i] :=
    desc_eq ▸ headLine_merge s.notice.desc head low high i
  have copy8 : desc[8] = byte8 := by simpa using copy 8
  have copy9 : desc[9] = byte9 := by simpa using copy 9
  have others (i : Fin 10) (hi : i.val < 8) : desc[i] = u.desc[i] := by
    rw [copy, if_neg (by omega), if_neg (by omega)]
  have head_eq : NoticeUnit.descHead { s.notice with desc := desc } = h := by
    rw [NoticeUnit.descHead, field16_toNat, number2, vecByte_of_lt _ (by decide), vecByte_of_lt _ (by decide)]
    exact congrArg₂ (fun a b : Byte => a.toNat + 256 * b.toNat) copy8 copy9
  let next : State := { s.accepted [(nthLine base 1, headLine head low high)] with
    notice := if (low || high) = true then NoticeUnit.testHead { s.notice with desc := desc } else { s.notice with desc := desc } }
  have runs : exec (.headIndexWrite tag head low high) s = commit s next := by
    show commit s (s.writeArrives (nthLine (s.cfg.control.getD 0) 1) [headLine head low high]) = _
    rw [control, Option.getD_some, State.writeArrives_line _ started (by rw [class_]; decide) room]
    refine congrArg (commit s) ?_
    rw [State.deliverLine_control (s := s.accepted _) class_]
    change State.deliverControl _ (indexIn s.cfg.controlWindow (nthLine base 1)) _ = _
    rw [line, State.deliverControl, State.deliverRing, headLine_tested]
    change ({ s.accepted _ with notice := _ } : State) = next
    subst desc_eq
    rfl
  have follows := settle_follows s next
  by_cases test : low = true ∨ high = true
  · have tested_ : (low || high) = true := by simpa using test
    have v_eq : v = if valid then { u with head := h } else { u with badHead := min (u.badHead + 1) 65535 } :=
      if_neg (not_not.2 test)
    have notice : next.notice = NoticeUnit.testHead { u with desc := desc } := if_pos tested_
    rw [NoticeUnit.testHead_eq, head_eq] at notice
    refine ⟨settle s next, runs, ?_⟩
    rw [follows.1, notice, v_eq]
    by_cases ok : valid
    · have ok' : NoticeUnit.headValid { u with desc := desc } h = true := by
        rw [NoticeUnit.headValid, Bool.and_eq_true, decide_eq_true_iff, decide_eq_true_iff]
        exact ok
      rw [if_pos ok', if_pos ok]
      exact ⟨rfl, rfl, fun _ _ => ⟨rfl, rfl⟩, fun no => absurd ⟨test, ok⟩ no, others, copy8, copy9, rfl, rfl, rfl, rfl,
        fun no => absurd test no, rfl, rfl⟩
    · have ok' : ¬ NoticeUnit.headValid { u with desc := desc } h = true := by
        rw [NoticeUnit.headValid, Bool.and_eq_true, decide_eq_true_iff, decide_eq_true_iff]
        exact ok
      rw [if_neg ok', if_neg ok]
      exact ⟨rfl, rfl, fun _ yes => absurd yes ok, fun _ => ⟨rfl, rfl⟩, others, copy8, copy9, rfl, rfl, rfl, rfl,
        fun no => absurd test no, rfl, rfl⟩
  · have untested : ¬ (low || high) = true := by simpa using test
    have same : desc = u.desc := Vector.ext fun i hi => by
      have := copy ⟨i, hi⟩
      simp only [not_or] at test
      simpa [test.1, test.2] using this
    have v_eq : v = u := if_pos test
    have notice : next.notice = u := by
      refine (if_neg untested).trans ?_
      rw [same]
    refine ⟨next, runs.trans (commit_of_same fun i => statusLine_congr i rfl rfl rfl rfl rfl rfl rfl rfl rfl notice.symm), ?_⟩
    rw [notice, v_eq]
    exact ⟨rfl, rfl, fun yes => absurd yes test, fun _ => ⟨rfl, rfl⟩, fun _ _ => rfl, same ▸ copy8, same ▸ copy9, rfl, rfl,
      rfl, rfl, fun _ => rfl, rfl, by rw [← notice]; rfl⟩

/-! ## Selections (R119 to R124) -/

/-- The first entry of a list that has a property. -/
theorem find?_of_first {α : Type} {l front back : List α} {e : α} {p : α → Bool} {P : α → Prop}
    (iff : ∀ x, p x = true ↔ P x) (split : l = front ++ e :: back) (holds : P e) (first : ∀ x ∈ front, ¬ P x) :
    l.find? p = some e :=
  List.find?_eq_some_iff_append.2 ⟨(iff e).2 holds, front, back, split, fun x hx => by
    simpa using fun h => first x hx ((iff x).1 h)⟩

theorem find?_of_none {α : Type} {l : List α} {p : α → Bool} {P : α → Prop}
    (iff : ∀ x, p x = true ↔ P x) (none_ : ∀ x ∈ l, ¬ P x) : l.find? p = none :=
  List.find?_eq_none.2 fun x hx h => none_ x hx ((iff x).1 h)

/-- Whether an entry is running on a screen, as R119 and R121 say it. -/
theorem runs_iff (c : ScreenConf) (t : Nat) (e : ListEntry) : (matchesScreen c e && e.running t) = true ↔
    (c.deckMask.getLsbD e.deck = true ∧ c.categoryMask.getLsbD e.category = true) ∧ e.start ≤ t ∧ t < e.finish := by
  simp [matchesScreen, ListEntry.running]

/-- Whether an entry is to come on a screen, as R119 and R121 say it. -/
theorem toCome_iff (c : ScreenConf) (t : Nat) (e : ListEntry) : (matchesScreen c e && decide (t < e.start)) = true ↔
    (c.deckMask.getLsbD e.deck = true ∧ c.categoryMask.getLsbD e.category = true) ∧ t < e.start := by
  simp [matchesScreen]

/-- Whether an entry is featured on a screen, as R123 says it. -/
theorem features_iff (c : ScreenConf) (t : Nat) (e : ListEntry) : (matchesScreen c e && e.features t) = true ↔
    e.featured = true ∧
      (((c.deckMask.getLsbD e.deck = true ∧ c.categoryMask.getLsbD e.category = true) ∧ e.start ≤ t ∧ t < e.finish) ∨
      (((c.deckMask.getLsbD e.deck = true ∧ c.categoryMask.getLsbD e.category = true) ∧ t < e.start) ∧
        e.start ≤ t + e.lead)) := by
  have lead : e.start - t ≤ e.lead ↔ e.start ≤ t + e.lead := by omega
  simp only [matchesScreen, ListEntry.features, ListEntry.running, Bool.and_eq_true, Bool.or_eq_true, decide_eq_true_iff,
    lead]
  tauto

/-- The selection record of a screen that has one. -/
theorem ProgUnit.select_eq {p : ProgUnit} {sc : Screen} {r : Selection} (h : p.select sc = some r) :
    r.now = (p.nowEntry sc.conf).map (·.index) ∧ r.next = (p.nextEntry sc.conf).map (·.index) ∧
    r.countdown = ((p.nextEntry sc.conf).map fun e => e.start - p.minuteNow) ∧ r.featured = p.featuredField sc := by
  unfold ProgUnit.select at h
  cases kind : sc.conf.kind with
  | general => simp [kind] at h
  | wayfinding | programme =>
    simp only [kind, Option.some.injEq] at h
    subst h
    exact ⟨rfl, rfl, rfl, rfl⟩

theorem ProgUnit.select_none_iff (p : ProgUnit) (sc : Screen) : p.select sc = none ↔ sc.conf.kind = .general := by
  unfold ProgUnit.select
  cases sc.conf.kind <;> simp

/-- A changed featured target goes to the Route engine where the screen has an ARROW pane (R96, R123). -/
theorem State.featured_handed {s t : State} (length : t.prog.sel.length = s.screen.screens.length)
    (work : t.route.work = (s.withArrow (featuredChanges s.prog.sel t.prog.sel)).foldl appendWork s.route.work) :
    FeaturedHanded s t := by
  rw [FeaturedHanded, work, State.withArrow, featuredChanges, List.filter_filter, length]
  refine congrArg (fun l => l.foldl appendWork s.route.work) (List.filter_congr fun i _ => ?_)
  cases s.screen.screens[i]? with
  | none => rfl
  | some sc =>
    cases s.prog.sel[i]? with
    | none => cases t.prog.sel[i]? with
      | none => simp
      | some b => cases b <;> simp
    | some a => cases t.prog.sel[i]? with
      | none => cases a <;> simp
      | some b => cases a <;> cases b <;> simp [eq_comm]

theorem State.computeSelections_sel (s : State) :
    s.computeSelections.prog = { s.prog with sel := s.screen.screens.map s.prog.select } := rfl

theorem State.computeSelections_handed (s : State) : FeaturedHanded s s.computeSelections :=
  State.featured_handed (by simp [State.computeSelections_sel]) rfl

/-- Settles O32. -/
theorem nowNextAndCountdown : Obligations.NowNextAndCountdown := by
  refine ⟨?_, fun s => ⟨s.computeSelections_sel, s.computeSelections_handed, rfl⟩⟩
  intro p sc T fits running toCome features
  refine ⟨p.select_none_iff sc, fun r h => ?_⟩
  obtain ⟨now, next, countdown, featured⟩ := ProgUnit.select_eq h
  refine ⟨fun unset => ?_, fun set_ => ⟨?_, ?_, ?_, ?_⟩, featured, fun other => ?_, fun wayfinding => ⟨fun unset => ?_, fun set_ => ⟨?_, ?_⟩⟩⟩
  · have unset : ¬ p.clockSet = true := by rw [unset]; nofun
    rw [now, next, countdown, ProgUnit.nowEntry, ProgUnit.nextEntry, if_neg unset, if_neg unset]
    exact ⟨rfl, rfl, rfl⟩
  · intro front e back split runs first
    rw [now, ProgUnit.nowEntry, if_pos set_, find?_of_first (runs_iff sc.conf p.minuteNow) split runs first]
    rfl
  · intro none_
    rw [now, ProgUnit.nowEntry, if_pos set_, find?_of_none (runs_iff sc.conf p.minuteNow) none_]
    rfl
  · intro front e back split coming first
    have later : T < e.start := coming.2
    rw [next, countdown, ProgUnit.nextEntry, if_pos set_, find?_of_first (toCome_iff sc.conf p.minuteNow) split coming first]
    exact ⟨rfl, e.start - T, rfl, by omega, by omega⟩
  · intro none_
    rw [next, countdown, ProgUnit.nextEntry, if_pos set_, find?_of_none (toCome_iff sc.conf p.minuteNow) none_]
    exact ⟨rfl, rfl⟩
  · rw [featured, ProgUnit.featuredField]
    cases kind : sc.conf.kind with
    | wayfinding => exact absurd kind other
    | programme | general => rfl
  · rw [featured, ProgUnit.featuredField, wayfinding, ProgUnit.featuredTarget, unset]
    rfl
  · intro front e back split shows first
    rw [featured, ProgUnit.featuredField, wayfinding, ProgUnit.featuredTarget, if_pos set_,
      find?_of_first (features_iff sc.conf p.minuteNow) split shows first]
  · intro none_
    rw [featured, ProgUnit.featuredField, wayfinding, ProgUnit.featuredTarget, if_pos set_,
      find?_of_none (features_iff sc.conf p.minuteNow) none_]

/-! ## Counters -/

/-- A saturating counter that increments `n` times. -/
def satAdd (c n : Nat) : Nat := if n = 0 then c else min (c + n) 65535

theorem satAdd_zero (c : Nat) : satAdd c 0 = c := if_pos rfl

theorem satAdd_satInc (c n : Nat) : satAdd (satInc c) n = satAdd c (n + 1) := by
  unfold satAdd satInc Config.counterMax
  split <;> split <;> omega

/-! ## Segment states (R87, R88) -/

theorem Segment.withCode_eq (g : Segment) (b : Byte) : g.withCode b = { g with soft := (softOf b).getD g.soft } := by
  unfold Segment.withCode softOf
  rcases b.toNat with _ | _ | _ | _ <;> rfl

theorem softOf_eq_none (b : Byte) : softOf b = none ↔ 2 < b.toNat := by
  unfold softOf
  rcases b.toNat with _ | _ | _ | n <;> simp

/-- What one status byte does (R87). -/
theorem RouteUnit.takeByte_eq (r : RouteUnit) (i : Nat) (b : Byte) : r.takeByte i b =
    { r with
      segments := r.segments.modify i fun g => g.withCode b
      badSeg := if i < r.segments.length ∧ 2 < b.toNat then satInc r.badSeg else r.badSeg } := by
  unfold RouteUnit.takeByte
  cases found : r.segments[i]? with
  | none =>
    have out : r.segments.length ≤ i := List.getElem?_eq_none_iff.1 found
    rw [List.modify_eq_self out, if_neg (by omega)]
  | some g =>
    obtain ⟨inside, at_⟩ := List.getElem?_eq_some_iff.1 found
    rw [modify_eq_set found, Segment.withCode_eq]
    dsimp only
    cases code : softOf b with
    | none =>
      rw [if_pos ⟨inside, (softOf_eq_none b).1 code⟩, Option.getD_none]
      have same : r.segments.set i g = r.segments := by rw [← at_, List.set_getElem_self]
      exact congrArg (fun l => { r with segments := l, badSeg := satInc r.badSeg }) same.symm
    | some st =>
      have good : ¬ 2 < b.toNat := fun h => by
        rw [(softOf_eq_none b).2 h] at code
        cases code
      rw [if_neg (fun h => good h.2)]
      rfl

/-- Bytes taken at one instant, of segments that differ: each state is set by its own byte, and each byte that
holds no code is counted (R87). -/
theorem RouteUnit.takeBytes_taken (l : List (Nat × Byte)) (r : RouteUnit) (once : (l.map (·.1)).Nodup) :
    let r' := l.foldl (fun r q => r.takeByte q.1 q.2) r
    r' = { r with segments := r'.segments, badSeg := r'.badSeg } ∧ r'.segments.length = r.segments.length ∧
    (∀ (i : Nat) (g : Segment), r.segments[i]? = some g →
      (∀ b, (i, b) ∈ l → r'.segments[i]? = some (g.withCode b)) ∧
      ((∀ b, (i, b) ∉ l) → r'.segments[i]? = some g)) ∧
    r'.badSeg = satAdd r.badSeg (l.countP fun q => decide (q.1 < r.segments.length) && decide (2 < q.2.toNat)) := by
  induction l generalizing r with
  | nil => exact ⟨rfl, rfl, fun i g found => ⟨nofun, fun _ => found⟩, (satAdd_zero _).symm⟩
  | cons q l ih =>
    obtain ⟨fresh, once⟩ := List.nodup_cons.1 once
    obtain ⟨rest, length, states, count⟩ := ih (r.takeByte q.1 q.2) once
    dsimp only [List.foldl_cons] at rest length states count ⊢
    generalize l.foldl (fun r q => r.takeByte q.1 q.2) (r.takeByte q.1 q.2) = r' at rest length states count ⊢
    have head := r.takeByte_eq q.1 q.2
    have sameLength : (r.takeByte q.1 q.2).segments.length = r.segments.length := by rw [head]; simp
    refine ⟨?_, length.trans sameLength, fun i g found => ?_, ?_⟩
    · refine rest.trans ?_
      rw [head]
    · by_cases own : i = q.1
      · subst own
        have taken : (r.takeByte q.1 q.2).segments[q.1]? = some (g.withCode q.2) := by
          rw [head]
          simp [found]
        have last := (states q.1 (g.withCode q.2) taken).2 fun b mem => fresh (List.mem_map_of_mem (f := (·.1)) mem)
        refine ⟨fun b mem => ?_, fun none_ => absurd List.mem_cons_self (none_ q.2)⟩
        obtain same | later := List.mem_cons.1 mem
        · obtain rfl : b = q.2 := congrArg Prod.snd same
          exact last
        · exact absurd (List.mem_map_of_mem (f := (·.1)) later) fresh
      · have kept : (r.takeByte q.1 q.2).segments[i]? = some g := by
          rw [head]
          simp [found, Ne.symm own]
        obtain ⟨taken, untouched⟩ := states i g kept
        refine ⟨fun b mem => taken b ?_, fun none_ => untouched fun b mem => none_ b (.tail q mem)⟩
        exact (List.mem_cons.1 mem).resolve_left fun h => own (congrArg Prod.fst h)
    · rw [count, sameLength, List.countP_cons, head]
      dsimp only
      by_cases bad : q.1 < r.segments.length ∧ 2 < q.2.toNat
      · rw [if_pos bad, satAdd_satInc, if_pos (by simpa using bad)]
      · rw [if_neg bad, if_neg (by simpa using bad), Nat.add_zero]

/-- Bytes taken at one instant append the ARROW screens where a state has changed (R88). -/
theorem State.takeBytes_taken (s : State) (l : List (Nat × Byte)) (once : (l.map (·.1)).Nodup) :
    ∃ r : RouteUnit, s.takeBytes l = { s with route := r } ∧
    r = { s.route with segments := r.segments, badSeg := r.badSeg, work := r.work } ∧
    r.segments.length = s.route.segments.length ∧
    (∀ (i : Nat) (g : Segment), s.route.segments[i]? = some g →
      (∀ b, (i, b) ∈ l → r.segments[i]? = some (g.withCode b)) ∧
      ((∀ b, (i, b) ∉ l) → r.segments[i]? = some g)) ∧
    r.badSeg =
      satAdd s.route.badSeg (l.countP fun q => decide (q.1 < s.route.segments.length) && decide (2 < q.2.toNat)) ∧
    r.work = if r.segments = s.route.segments then s.route.work else s.arrowScreens.foldl appendWork s.route.work := by
  obtain ⟨route, length, states, count⟩ := RouteUnit.takeBytes_taken l s.route once
  unfold State.takeBytes
  dsimp only at route length states count ⊢
  generalize l.foldl (fun r q => r.takeByte q.1 q.2) s.route = r at route length states count ⊢
  have changed : r.softs = s.route.softs ↔ r.segments = s.route.segments := by
    refine ⟨fun same => ?_, fun same => by rw [RouteUnit.softs, same, RouteUnit.softs]⟩
    refine List.ext_getElem? fun i => ?_
    cases found : s.route.segments[i]? with
    | none =>
      rw [List.getElem?_eq_none_iff] at found ⊢
      omega
    | some g =>
      obtain ⟨taken, untouched⟩ := states i g found
      by_cases mem : ∃ b, (i, b) ∈ l
      · obtain ⟨b, mem⟩ := mem
        have soft := congrArg (·[i]?) same
        simp only [RouteUnit.softs, List.getElem?_map, taken b mem, found, Option.map_some, Option.some.injEq] at soft
        rw [taken b mem, Segment.withCode_eq]
        rw [Segment.withCode_eq] at soft
        exact congrArg some (congrArg (fun st => { g with soft := st }) soft)
      · exact untouched fun b hb => mem ⟨b, hb⟩
  have kept : r.work = s.route.work := by rw [route]
  split
  next same => exact ⟨r, rfl, by rw [route], length, states, count, by rw [if_pos (changed.1 same), kept]⟩
  next differ =>
    refine ⟨{ r with work := s.arrowScreens.foldl appendWork r.work }, rfl, by rw [route], length, states, count, ?_⟩
    rw [kept]
    exact (if_neg fun h => differ (changed.2 h)).symm

/-- The bytes that a delivered segment line brings (R87). -/
def segmentBytes (k : Nat) (w : WriteLine) : List (Nat × Byte) :=
  (List.range 64).filterMap fun j =>
    if (w.en[j]?).getD false then some (64 * k + j, vecByte w.data j) else none

theorem mem_segmentBytes {k : Nat} {w : WriteLine} {i : Nat} {b : Byte} : (i, b) ∈ segmentBytes k w ↔
    (i / 64 = k ∧ anyEnabled w.en (i % 64) 1 = true) ∧ b = vecByte w.data (i % 64) := by
  have one : anyEnabled w.en (i % 64) 1 = (w.en[i % 64]?).getD false := by simp [anyEnabled]
  rw [one]
  simp only [segmentBytes, List.mem_filterMap, List.mem_range]
  constructor
  · rintro ⟨j, small, hj⟩
    split at hj
    next enabled =>
      simp only [Option.some.injEq, Prod.mk.injEq] at hj
      obtain ⟨rfl, rfl⟩ := hj
      rw [show (64 * k + j) % 64 = j by omega]
      exact ⟨⟨by omega, enabled⟩, rfl⟩
    · cases hj
  · rintro ⟨⟨rfl, enabled⟩, rfl⟩
    refine ⟨i % 64, by omega, ?_⟩
    rw [if_pos enabled, show 64 * (i / 64) + i % 64 = i by omega]

theorem segmentBytes_once (k : Nat) (w : WriteLine) : ((segmentBytes k w).map (·.1)).Nodup := by
  have numbers : (segmentBytes k w).map (·.1) =
      ((List.range 64).filter fun j => (w.en[j]?).getD false).map fun j => 64 * k + j := by
    simp only [segmentBytes, List.map_filterMap]
    rw [← List.filterMap_eq_map, List.filterMap_filter]
    refine List.filterMap_congr fun j _ => ?_
    split <;> rfl
  rw [numbers]
  exact (List.nodup_range.filter _).map fun a b h => by omega

theorem segmentBytes_bad (k : Nat) (w : WriteLine) (n : Nat) :
    (segmentBytes k w).countP (fun q => decide (q.1 < n) && decide (2 < q.2.toNat)) =
      (List.finRange 64).countP fun j => decide (64 * k + j.val < n) && w.en[j] && decide (2 < w.data[j].toNat) := by
  rw [segmentBytes, List.countP_filterMap, ← List.map_coe_finRange_eq_range, List.countP_map]
  refine List.countP_congr fun j _ => ?_
  simp only [Function.comp, Fin.getElem_fin, Vector.getElem?_eq_getElem j.isLt, Option.getD_some, vecByte_of_lt _ j.isLt]
  cases w.en[j.val] <;> simp

/-- Settles O33. -/
theorem segmentLineTaken : Obligations.SegmentLineTaken := by
  intro tag k w s v started window inside fits class_ room
  have runs := execSegmentStatusWrite_eq tag w started window inside fits class_ room
  obtain ⟨r, eq, route, length, states, count, work⟩ :=
    (s.tableLine v .segments k.val w).takeBytes_taken (segmentBytes k.val w) (segmentBytes_once k.val w)
  change _ = commit s ((s.tableLine v .segments k.val w).takeBytes (segmentBytes k.val w)) at runs
  rw [eq] at runs
  refine ⟨_, runs, ?_⟩
  rw [(settle_follows s _).1]
  refine ⟨fun i g found => ?_, length, work, ?_, route, touch_touched s.cmd.rescan .segments k.val w.en, rfl, rfl⟩
  · obtain ⟨taken, untouched⟩ := states i g found
    split
    next enabled => exact taken _ (mem_segmentBytes.2 ⟨enabled, rfl⟩)
    next other => exact untouched fun b mem => other (mem_segmentBytes.1 mem).1
  · rintro bad rfl
    exact count.trans (congrArg (satAdd s.route.badSeg) (segmentBytes_bad k.val w s.route.segments.length))

end Sys2Proof.Machine

/-! SUPPORT. What the copies of the programme table take: the entries that are evaluated at one instant, with
their status, count and notices (R116 to R119, R129). -/

namespace Sys2Proof.Machine

open Sys2Proof

set_option Elab.async false

/-! ## Entries taken at one instant (R117, R118) -/

/-- The ENTRY_REJECTED notice of an evaluation, if it is due (R118). -/
def State.rejectReport (s : State) (i : Nat) (before after : EntryStatus) : Option Notice :=
  match after with
  | .rejected n =>
    if before = .rejected n then none
    else some { kind := .entryRejected, urgent := false, subject := BitVec.ofNat 32 i
                detail := BitVec.ofNat 32 n, epoch := s.muster.epoch, stamp := s.time.uptime }
  | .empty | .listed => none

theorem State.rejectNotices_eq (s : State) (i : Nat) (before after : EntryStatus) :
    s.rejectNotices i before after = (s.rejectReport i before after).toList := by
  unfold State.rejectNotices State.rejectReport
  cases after with
  | empty | listed => rfl
  | rejected n =>
    dsimp only
    split <;> rfl

/-- The evaluation of an entry, none where the shadow has no such entry. -/
def ProgUnit.evaluates (p : ProgUnit) (q : Nat × (ShadowEntry → Vector Byte 32)) : Option (EntryStatus × EntryStatus) :=
  p.shadow[q.1]?.map fun e => (e.status, statusOf (q.2 e))

/-- Entries that differ take their bytes at one instant, and are evaluated, counted and reported one after
another (R117, R118). -/
theorem State.entriesTaken (l : List (Nat × (ShadowEntry → Vector Byte 32))) (s : State) (once : (l.map (·.1)).Nodup) :
    ∃ (shadow : List ShadowEntry) (order : List ListEntry) (rejected : Nat) (notice : NoticeUnit),
      l.foldl (fun t q => t.entryTaken q.1 q.2) s =
        { s with prog := { s.prog with shadow := shadow, order := order, rejected := rejected }, notice := notice } ∧
      shadow.length = s.prog.shadow.length ∧
      (∀ (i : Nat) (e : ShadowEntry), s.prog.shadow[i]? = some e →
        (∀ f, (i, f) ∈ l → shadow[i]? = some { bytes := f e, status := statusOf (f e) }) ∧
        ((∀ f, (i, f) ∉ l) → shadow[i]? = some e)) ∧
      rejected = satAdd s.prog.rejected
        (l.countP fun q => ((s.prog.evaluates q).map fun v => v.2.isRejected).getD false) ∧
      notice = (l.filterMap fun q => (s.prog.evaluates q).bind fun v => s.rejectReport q.1 v.1 v.2).foldl
        NoticeUnit.push s.notice := by
  induction l generalizing s with
  | nil =>
    exact ⟨_, _, _, _, rfl, rfl, fun i e found => ⟨nofun, fun _ => found⟩, (satAdd_zero _).symm, rfl⟩
  | cons q l ih =>
    obtain ⟨fresh, once⟩ := List.nodup_cons.1 once
    obtain ⟨shadow, order, rejected, notice, eq, length, entries, count, notices⟩ := ih (s.entryTaken q.1 q.2) once
    cases found : s.prog.shadow[q.1]? with
    | none =>
      have none_ : s.prog.evaluates q = none := by rw [ProgUnit.evaluates, found]; rfl
      rw [s.entryTaken_of_none q.2 found] at eq length entries count notices
      refine ⟨shadow, order, rejected, notice, ?_, length, fun i e at_ => ?_, ?_, ?_⟩
      · rw [List.foldl_cons, s.entryTaken_of_none q.2 found, eq]
      · obtain ⟨taken, untouched⟩ := entries i e at_
        refine ⟨fun f mem => taken f ((List.mem_cons.1 mem).resolve_left fun own => ?_),
          fun none_ => untouched fun f mem => none_ f (.tail q mem)⟩
        exact absurd (at_.symm.trans ((congrArg (s.prog.shadow[·]?) (congrArg Prod.fst own : i = q.1)).trans found)) nofun
      · rw [count, List.countP_cons_of_neg]
        rw [none_]
        nofun
      · rw [notices, List.filterMap_cons_none]
        rw [none_]
        rfl
    | some e =>
      have some_ : s.prog.evaluates q = some (e.status, statusOf (q.2 e)) := by rw [ProgUnit.evaluates, found]; rfl
      have head := s.entryTaken_of_some q.2 found
      have others : ∀ r ∈ l, (s.entryTaken q.1 q.2).prog.evaluates r = s.prog.evaluates r := fun r hr => by
        have differ : q.1 ≠ r.1 := fun h => fresh (List.mem_map.2 ⟨r, hr, h.symm⟩)
        rw [ProgUnit.evaluates, head, ProgUnit.evaluates]
        exact congrArg (Option.map _) (List.getElem?_set_ne differ)
      have sameCount : l.countP (fun r => (((s.entryTaken q.1 q.2).prog.evaluates r).map fun v => v.2.isRejected).getD false) =
          l.countP fun r => ((s.prog.evaluates r).map fun v => v.2.isRejected).getD false :=
        List.countP_congr fun r hr => by rw [others r hr]
      have sameReports : (l.filterMap fun r => ((s.entryTaken q.1 q.2).prog.evaluates r).bind fun v =>
            (s.entryTaken q.1 q.2).rejectReport r.1 v.1 v.2) =
          l.filterMap fun r => (s.prog.evaluates r).bind fun v => s.rejectReport r.1 v.1 v.2 :=
        List.filterMap_congr fun r hr => by
          rw [others r hr, head]
          rfl
      rw [sameCount] at count
      rw [sameReports] at notices
      rw [head] at eq length count notices
      refine ⟨shadow, order, rejected, notice, ?_, ?_, fun i x at_ => ?_, ?_, ?_⟩
      · rw [List.foldl_cons, head, eq]
        rfl
      · rw [length]
        exact List.length_set
      · by_cases own : i = q.1
        · subst own
          obtain rfl := Option.some_inj.1 (found.symm.trans at_)
          have taken : (s.entryTaken q.1 q.2).prog.shadow[q.1]? = some { bytes := q.2 e, status := statusOf (q.2 e) } := by
            rw [head]
            exact List.getElem?_set_self (List.getElem?_eq_some_iff.1 found).1
          have last := (entries q.1 _ taken).2 fun f mem => fresh (List.mem_map_of_mem (f := (·.1)) mem)
          refine ⟨fun f mem => ?_, fun none_ => absurd List.mem_cons_self (none_ q.2)⟩
          obtain same | later := List.mem_cons.1 mem
          · obtain rfl : f = q.2 := congrArg Prod.snd same
            exact last
          · exact absurd (List.mem_map_of_mem (f := (·.1)) later) fresh
        · have kept : (s.entryTaken q.1 q.2).prog.shadow[i]? = some x := by
            rw [head]
            exact (List.getElem?_set_ne (Ne.symm own)).trans at_
          obtain ⟨taken, untouched⟩ := entries i x kept
          refine ⟨fun f mem => taken f ((List.mem_cons.1 mem).resolve_left fun h => own (congrArg Prod.fst h)),
            fun none_ => untouched fun f mem => none_ f (.tail q mem)⟩
      · rw [count, List.countP_cons, some_]
        change satAdd (if (statusOf (q.2 e)).isRejected = true then satInc s.prog.rejected else s.prog.rejected) _ = _
        dsimp only [Option.map_some, Option.getD_some]
        split
        · exact satAdd_satInc _ _
        · rfl
      · rw [notices, List.filterMap_cons, some_]
        change List.foldl _ ((s.rejectNotices q.1 e.status (statusOf (q.2 e))).foldl NoticeUnit.push s.notice) _ = _
        rw [State.rejectNotices_eq]
        dsimp only [Option.bind_some]
        cases s.rejectReport q.1 e.status (statusOf (q.2 e)) <;> rfl

/-! ## A delivered programme line (R116) -/

/-- The entries of a line that received an enabled byte, with what each takes (R116). -/
def lineEntries (k : Nat) (w : WriteLine) : List (Nat × (ShadowEntry → Vector Byte 32)) :=
  (List.range 2).filterMap fun j =>
    if anyEnabled w.en (32 * j) 32 = true then some (2 * k + j, fun e => mergeBytes e.bytes (32 * j) w) else none

theorem mem_lineEntries {k : Nat} {w : WriteLine} {i : Nat} {f : ShadowEntry → Vector Byte 32} :
    (i, f) ∈ lineEntries k w ↔ ∃ j, j < 2 ∧ anyEnabled w.en (32 * j) 32 = true ∧ i = 2 * k + j ∧
      f = fun e => mergeBytes e.bytes (32 * j) w := by
  simp only [lineEntries, List.mem_filterMap, List.mem_range]
  constructor
  · rintro ⟨j, small, hj⟩
    split at hj
    next enabled =>
      simp only [Option.some.injEq, Prod.mk.injEq] at hj
      exact ⟨j, small, enabled, hj.1.symm, hj.2.symm⟩
    · cases hj
  · rintro ⟨j, small, enabled, rfl, rfl⟩
    exact ⟨j, small, if_pos enabled⟩

theorem lineEntries_once (k : Nat) (w : WriteLine) : ((lineEntries k w).map (·.1)).Nodup := by
  have numbers : (lineEntries k w).map (·.1) =
      ((List.range 2).filter fun j => anyEnabled w.en (32 * j) 32).map fun j => 2 * k + j := by
    simp only [lineEntries, List.map_filterMap]
    rw [← List.filterMap_eq_map, List.filterMap_filter]
    refine List.filterMap_congr fun j _ => ?_
    split <;> rfl
  rw [numbers]
  exact (List.nodup_range.filter _).map fun a b h => by omega

theorem anyEnabled_halves (en : Enables) : anyEnabled en 0 64 = (anyEnabled en 0 32 || anyEnabled en 32 32) := by
  simp only [anyEnabled, show (64 : Nat) = 32 + 32 from rfl, List.range_add, List.any_append, List.any_map, Nat.zero_add]
  rfl

theorem State.takeEntry_eq (s : State) (i o : Nat) (w : WriteLine) : s.takeEntry i o w =
    if anyEnabled w.en o 32 = true then s.entryTaken i fun e => mergeBytes e.bytes o w else s := rfl

theorem State.takeEntries_eq (s : State) (k : Nat) (w : WriteLine) :
    (s.takeEntry (2 * k) 0 w).takeEntry (2 * k + 1) 32 w = (lineEntries k w).foldl (fun t q => t.entryTaken q.1 q.2) s := by
  simp only [lineEntries, List.range_succ, List.range_zero, List.nil_append, List.cons_append, State.takeEntry_eq,
    List.filterMap_cons, List.filterMap_nil]
  split <;> split <;> simp_all

/-- No change of a featured target hands over nothing. -/
theorem FeaturedHanded.of_same {s t : State} (sel : t.prog.sel = s.prog.sel) (work : t.route.work = s.route.work) :
    FeaturedHanded s t := by
  rw [FeaturedHanded, List.filter_eq_nil_iff.2, work]
  · rfl
  · intro i _
    rw [sel]
    cases s.screen.screens[i]? with
    | none => nofun
    | some sc =>
      cases s.prog.sel[i]? with
      | none => nofun
      | some a => cases a <;> simp

theorem lineEntries_nil {k : Nat} {w : WriteLine} (none_ : ¬ anyEnabled w.en 0 64 = true) : lineEntries k w = [] := by
  rw [anyEnabled_halves, Bool.or_eq_true, not_or] at none_
  refine List.eq_nil_iff_forall_not_mem.2 fun ⟨i, f⟩ mem => ?_
  obtain ⟨j, small, enabled, -⟩ := mem_lineEntries.1 mem
  match j with
  | 0 => exact none_.1 enabled
  | 1 => exact none_.2 enabled

/-- What a delivered programme line changes (R116 to R118, R123, R124). -/
theorem State.deliverProgramme_taken (s : State) (k : Nat) (w : WriteLine) :
    ∃ (shadow : List ShadowEntry) (order : List ListEntry) (rejected : Nat) (sel : List (Option Selection))
      (work : List Nat) (notice : NoticeUnit),
      s.deliverProgramme k w = { s with
        prog := { s.prog with shadow := shadow, order := order, rejected := rejected, sel := sel }
        route := { s.route with work := work }, notice := notice } ∧
      shadow.length = s.prog.shadow.length ∧
      (∀ (i : Nat) (e : ShadowEntry), s.prog.shadow[i]? = some e →
        (∀ f, (i, f) ∈ lineEntries k w → shadow[i]? = some { bytes := f e, status := statusOf (f e) }) ∧
        ((∀ f, (i, f) ∉ lineEntries k w) → shadow[i]? = some e)) ∧
      rejected = satAdd s.prog.rejected
        ((lineEntries k w).countP fun q => ((s.prog.evaluates q).map fun v => v.2.isRejected).getD false) ∧
      notice = ((lineEntries k w).filterMap fun q => (s.prog.evaluates q).bind fun v =>
        s.rejectReport q.1 v.1 v.2).foldl NoticeUnit.push s.notice ∧
      (anyEnabled w.en 0 64 = true → sel = s.screen.screens.map
        (ProgUnit.select { s.prog with shadow := shadow, order := order, rejected := rejected })) ∧
      FeaturedHanded s (s.deliverProgramme k w) := by
  obtain ⟨shadow, order, rejected, notice, eq, length, entries, count, notices⟩ :=
    s.entriesTaken (lineEntries k w) (lineEntries_once k w)
  unfold State.deliverProgramme
  split
  next enabled =>
    rw [State.takeEntries_eq, eq]
    exact ⟨shadow, order, rejected, _, _, notice, rfl, length, entries, count, notices, fun _ => rfl,
      State.computeSelections_handed _⟩
  next none_ =>
    rw [lineEntries_nil none_] at eq entries count notices ⊢
    exact ⟨shadow, order, rejected, s.prog.sel, s.route.work, notice, eq, length, entries, count, notices,
      fun enabled => absurd enabled none_, FeaturedHanded.of_same rfl rfl⟩

/-- The entries of a line that are evaluated to REJECTED (R118). -/
theorem lineEntries_rejected (p : ProgUnit) (k : Nat) (w : WriteLine) :
    (lineEntries k w).countP (fun q => ((p.evaluates q).map fun v => v.2.isRejected).getD false) =
      ((List.range 2).filterMap fun j =>
        match p.shadow[2 * k + j]? with
        | some e =>
          if anyEnabled w.en (32 * j) 32 = true then
            some (2 * k + j, e.status, statusOf (mergeBytes e.bytes (32 * j) w))
          else none
        | none => none).countP fun x => x.2.2.isRejected := by
  rw [lineEntries, List.countP_filterMap, List.countP_filterMap]
  refine List.countP_congr fun j _ => ?_
  cases found : p.shadow[2 * k + j]? with
  | none => split <;> simp [ProgUnit.evaluates, found]
  | some e => split <;> simp [ProgUnit.evaluates, found]

/-- The notices of a line's evaluations (R118). -/
theorem lineEntries_reports (s : State) (k : Nat) (w : WriteLine) :
    (lineEntries k w).filterMap (fun q => (s.prog.evaluates q).bind fun v => s.rejectReport q.1 v.1 v.2) =
      ((List.range 2).filterMap fun j =>
        match s.prog.shadow[2 * k + j]? with
        | some e =>
          if anyEnabled w.en (32 * j) 32 = true then
            some (2 * k + j, e.status, statusOf (mergeBytes e.bytes (32 * j) w))
          else none
        | none => none).filterMap fun x => s.rejectReport x.1 x.2.1 x.2.2 := by
  rw [lineEntries, List.filterMap_filterMap, List.filterMap_filterMap]
  refine List.filterMap_congr fun j _ => ?_
  cases found : s.prog.shadow[2 * k + j]? with
  | none => split <;> simp [ProgUnit.evaluates, found]
  | some e => split <;> simp [ProgUnit.evaluates, found]

theorem NoticesHanded.of_pushed {u n : NoticeUnit} {ns : List Notice} (dirty : Vector Bool 7)
    (h : n = ns.foldl NoticeUnit.push u) : NoticesHanded u { n with dirty := dirty } ns := by
  rw [h]
  rfl

/-- Settles O30. -/
theorem programmeLineTaken : Obligations.ProgrammeLineTaken := by
  intro tag k w s v started window inside fits class_ room evaluated rejected_ reports
  have runs := execProgrammeLineWrite_eq tag w started window inside fits class_ room
  obtain ⟨shadow, order, rejected, sel, work, notice, eq, length, entries, count, notices, selected, featured⟩ :=
    (s.tableLine v .programme k.val w).deliverProgramme_taken k.val w
  rw [eq] at runs featured
  refine ⟨_, runs, ?_⟩
  rw [(settle_follows s _).1]
  refine ⟨fun j e small found => ?_, fun i other => ?_, ?_, ?_, selected, featured,
    touch_touched s.cmd.rescan .programme k.val w.en, rfl, rfl, rfl, rfl, rfl, rfl, rfl⟩
  · obtain ⟨taken, untouched⟩ := entries _ e found
    split
    next enabled => exact taken _ (mem_lineEntries.2 ⟨j, small, enabled, rfl, rfl⟩)
    next off =>
      refine untouched fun f mem => ?_
      obtain ⟨j', -, enabled, same, -⟩ := mem_lineEntries.1 mem
      obtain rfl : j = j' := by omega
      exact off enabled
  · show shadow[i]? = s.prog.shadow[i]?
    cases found : s.prog.shadow[i]? with
    | none => exact List.getElem?_eq_none_iff.2 (length ▸ List.getElem?_eq_none_iff.1 found)
    | some e =>
      refine (entries i e found).2 fun f mem => ?_
      obtain ⟨j, small, -, same, -⟩ := mem_lineEntries.1 mem
      omega
  · exact count.trans (congrArg (satAdd s.prog.rejected) (lineEntries_rejected s.prog k.val w))
  · exact NoticesHanded.of_pushed _ (notices.trans (congrArg (fun ns : List Notice => ns.foldl NoticeUnit.push s.notice)
      (lineEntries_reports s k.val w)))

end Sys2Proof.Machine

/-! SUPPORT. What the Cabin unit takes from a written record or from a rescan: the home station, its causes and
its notified flag, cabin by cabin (R129, R133, R134, R139, R141). -/

namespace Sys2Proof.Machine

open Sys2Proof

set_option Elab.async false

/-! ## Causes, cabin by cabin (R139, R141) -/

/-- A cabin after an URGENT cause (R141). -/
def Cabin.urgent (now : Word) (c : Cabin) : Cabin :=
  match c.pend with
  | .urgent => c
  | .none => { c with pend := .urgent, eligible := now }
  | .routine => { c with pend := .urgent, eligible := now, notified := false }

/-- A cabin after a ROUTINE cause (R139). -/
def Cabin.routine (interval : Nat) (c : Cabin) : Cabin :=
  match c.pend with
  | .none => { c with pend := .routine, eligible := eligibleAfter c.lastRefresh interval }
  | .routine | .urgent => c

/-- The Cabin unit with other cabins and another pending set. -/
def CabinUnit.With (u v : CabinUnit) (cabins : List Cabin) : Prop := ∃ pend, v = { u with cabins := cabins, pend := pend }

theorem CabinUnit.place_with (u : CabinUnit) (i : Nat) (c : Cabin) : u.With (u.place i c) (u.cabins.set i c) := ⟨_, rfl⟩

theorem modify_self {α : Type} {l : List α} {i : Nat} {f : α → α} (h : ∀ x, l[i]? = some x → f x = x) : l.modify i f = l := by
  refine List.ext_getElem? fun j => ?_
  rw [List.getElem?_modify]
  by_cases own : i = j
  · subst own
    cases found : l[i]? with
    | none => simp
    | some x => simp [h x found]
  · simp [own]

theorem set_same {α : Type} {l : List α} {i : Nat} {x : α} (h : l[i]? = some x) : l.set i x = l := by
  obtain ⟨inside, rfl⟩ := List.getElem?_eq_some_iff.1 h
  exact List.set_getElem_self inside

theorem CabinUnit.urgentCause_with (u : CabinUnit) (now : Word) (i : Nat) :
    u.With (u.urgentCause now i) (u.cabins.modify i (Cabin.urgent now)) := by
  unfold CabinUnit.urgentCause
  cases found : u.cabins[i]? with
  | none => rw [modify_self fun x hx => absurd (found.symm.trans hx) nofun]; exact ⟨_, rfl⟩
  | some c =>
    rw [modify_eq_set found]
    cases pend : c.pend with
    | urgent =>
      simp only [pend, Cabin.urgent, set_same found]
      exact ⟨_, rfl⟩
    | none => simpa only [Cabin.urgent, pend] using u.place_with i _
    | routine => simpa only [Cabin.urgent, pend] using u.place_with i _

theorem CabinUnit.routineCause_with (u : CabinUnit) (interval i : Nat) :
    u.With (u.routineCause interval i) (u.cabins.modify i (Cabin.routine interval)) := by
  unfold CabinUnit.routineCause
  cases found : u.cabins[i]? with
  | none => rw [modify_self fun x hx => absurd (found.symm.trans hx) nofun]; exact ⟨_, rfl⟩
  | some c =>
    rw [modify_eq_set found]
    cases pend : c.pend with
    | urgent | routine =>
      simp only [pend, Cabin.routine, set_same found]
      exact ⟨_, rfl⟩
    | none => simpa only [Cabin.routine, pend] using u.place_with i _

/-! ## A home station taken (R133) -/

/-- A cabin after a home station value (R133). -/
def State.homed (s : State) (b : Byte) (c : Cabin) : Cabin :=
  if h : b.toNat < 12 then
    if outsideNormal s.muster.state = true ∧ s.shownStation c.home ≠ s.shownStation (some ⟨b.toNat, h⟩) then
      Cabin.urgent s.time.uptime { c with home := some ⟨b.toNat, h⟩ }
    else { c with home := some ⟨b.toNat, h⟩ }
  else c

theorem State.takeHome_eq (s : State) (i : Nat) (b : Byte) : ∃ pend, s.takeHome i b = { s with cabin :=
    { cabins := s.cabin.cabins.modify i (s.homed b), pend := pend
      badHome := if i < s.cabin.cabins.length ∧ 11 < b.toNat then satInc s.cabin.badHome else s.cabin.badHome } } := by
  unfold State.takeHome
  cases found : s.cabin.cabins[i]? with
  | none =>
    have out : ¬ i < s.cabin.cabins.length := by
      rw [List.getElem?_eq_none_iff] at found
      omega
    rw [modify_self fun x hx => absurd (found.symm.trans hx) nofun, if_neg fun h => out h.1]
    exact ⟨s.cabin.pend, rfl⟩
  | some c =>
    have inside := (List.getElem?_eq_some_iff.1 found).1
    rw [modify_eq_set found, State.homed]
    by_cases h : b.toNat < 12
    · rw [if_neg (show ¬ (i < s.cabin.cabins.length ∧ 11 < b.toNat) by omega)]
      simp only [dif_pos h, Bool.and_eq_true, decide_eq_true_iff]
      split
      · have taken : (s.cabin.cabins.set i { c with home := some ⟨b.toNat, h⟩ })[i]? =
            some { c with home := some ⟨b.toNat, h⟩ } := List.getElem?_set_self inside
        obtain ⟨pend, cause⟩ := CabinUnit.urgentCause_with
          { s.cabin with cabins := s.cabin.cabins.set i { c with home := some ⟨b.toNat, h⟩ } } s.time.uptime i
        rw [modify_eq_set taken, List.set_set] at cause
        exact ⟨_, congrArg (fun u => { s with cabin := u }) cause⟩
      · exact ⟨s.cabin.pend, rfl⟩
    · rw [if_pos ⟨inside, by omega⟩]
      simp only [dif_neg h]
      exact ⟨s.cabin.pend, by rw [set_same found]⟩

theorem Cabin.urgent_keeps (now : Word) (c : Cabin) : (c.urgent now).home = c.home ∧
    (c.urgent now).lastRefresh = c.lastRefresh ∧ (c.urgent now).lastWrite = c.lastWrite := by
  unfold Cabin.urgent
  cases c.pend <;> exact ⟨rfl, rfl, rfl⟩

theorem Cabin.urgent_pend (now : Word) (c : Cabin) : (c.urgent now).pend = .urgent ∧
    (c.urgent now).eligible = (if c.pend = .urgent then c.eligible else now) ∧
    (c.urgent now).notified = (c.notified && !decide (c.pend = .routine)) := by
  unfold Cabin.urgent
  cases pend : c.pend <;> simp [pend]

/-- The cabin `d` is `c` with a home station value taken for it, and an URGENT cause where that changes the station
to be shown (R133, R141). -/
structure State.HomeTaken (s : State) (c d : Cabin) : Prop where
  refresh : d.lastRefresh = c.lastRefresh
  write : d.lastWrite = c.lastWrite
  changed : outsideNormal s.muster.state = true → s.shownStation c.home ≠ s.shownStation d.home →
    d.pend = .urgent ∧ d.eligible = (if c.pend = .urgent then c.eligible else s.time.uptime)
  same : outsideNormal s.muster.state = false ∨ s.shownStation c.home = s.shownStation d.home →
    d.pend = c.pend ∧ d.eligible = c.eligible
  flag : d.notified = (c.notified && !decide (c.pend = .routine ∧ d.pend = .urgent))

theorem State.HomeTaken.refl (s : State) (c : Cabin) : s.HomeTaken c c where
  refresh := rfl
  write := rfl
  changed _ differ := absurd rfl differ
  same _ := ⟨rfl, rfl⟩
  flag := by cases c.pend <;> simp

theorem State.homed_home (s : State) (b : Byte) (c : Cabin) :
    (s.homed b c).home = if h : b.toNat < 12 then some ⟨b.toNat, h⟩ else c.home := by
  unfold State.homed
  split
  · split
    · exact (Cabin.urgent_keeps _ _).1
    · rfl
  · rfl

theorem State.homed_taken (s : State) (b : Byte) (c : Cabin) : s.HomeTaken c (s.homed b c) := by
  have home := s.homed_home b c
  by_cases h : b.toNat < 12
  · rw [dif_pos h] at home
    by_cases cause : outsideNormal s.muster.state = true ∧ s.shownStation c.home ≠ s.shownStation (some ⟨b.toNat, h⟩)
    · have eq : s.homed b c = Cabin.urgent s.time.uptime { c with home := some ⟨b.toNat, h⟩ } := by
        rw [State.homed, dif_pos h, if_pos cause]
      obtain ⟨-, refresh, write⟩ := Cabin.urgent_keeps s.time.uptime { c with home := some ⟨b.toNat, h⟩ }
      obtain ⟨pend, eligible, flag⟩ := Cabin.urgent_pend s.time.uptime { c with home := some ⟨b.toNat, h⟩ }
      rw [eq] at home ⊢
      refine ⟨refresh, write, fun _ _ => ⟨pend, eligible⟩, fun same => ?_, ?_⟩
      · rw [home] at same
        obtain normal | same := same
        · exact absurd cause.1 (by rw [normal]; nofun)
        · exact absurd same cause.2
      · rw [flag, pend]
        simp
    · have eq : s.homed b c = { c with home := some ⟨b.toNat, h⟩ } := by
        rw [State.homed, dif_pos h, if_neg cause]
      rw [eq]
      exact ⟨rfl, rfl, fun outside differ => absurd ⟨outside, differ⟩ cause, fun _ => ⟨rfl, rfl⟩, (State.HomeTaken.refl s c).flag⟩
  · have eq : s.homed b c = c := by rw [State.homed, dif_neg h]
    rw [eq]
    exact .refl s c

/-! ## A written record (R134) -/

/-- A cabin after its record has been written by a line at offset `o` (R134, R139). -/
def State.recorded (s : State) (o : Nat) (w : WriteLine) (seq : Nat) (c : Cabin) : Cabin :=
  Cabin.routine s.cfg.timing.refreshSeconds
    { (if anyEnabled w.en (o + 1) 1 = true then s.homed (vecByte w.data (o + 1)) c else c) with lastWrite := some seq }

theorem anyEnabled_of_byte {en : Enables} {o : Nat} (h : anyEnabled en (o + 1) 1 = true) : anyEnabled en o 32 = true := by
  unfold anyEnabled at *
  rw [List.any_eq_true] at *
  obtain ⟨j, hj, at_⟩ := h
  obtain rfl : j = 0 := by simpa using hj
  exact ⟨1, by decide, at_⟩

theorem State.cabinWritten_eq (s : State) (i o : Nat) (w : WriteLine) (seq : Nat) : ∃ pend, s.cabinWritten i o w seq = { s with cabin :=
    { cabins := s.cabin.cabins.modify i (s.recorded o w seq), pend := pend
      badHome := if i < s.cabin.cabins.length ∧ anyEnabled w.en (o + 1) 1 = true ∧ 11 < (vecByte w.data (o + 1)).toNat
        then satInc s.cabin.badHome else s.cabin.badHome } } := by
  have cause (u : CabinUnit) := CabinUnit.routineCause_with
    { u with cabins := u.cabins.modify i fun c => { c with lastWrite := some seq } } s.cfg.timing.refreshSeconds i
  have composed (f : Cabin → Cabin) (l : List Cabin) : ((l.modify i f).modify i fun c => { c with lastWrite := some seq }).modify i
      (Cabin.routine s.cfg.timing.refreshSeconds) =
      l.modify i fun c => Cabin.routine s.cfg.timing.refreshSeconds { f c with lastWrite := some seq } := by
    rw [List.modify_modify_eq, List.modify_modify_eq]
    rfl
  unfold State.cabinWritten
  by_cases byte : anyEnabled w.en (o + 1) 1 = true
  · obtain ⟨pend, taken⟩ := s.takeHome_eq i (vecByte w.data (o + 1))
    simp only [if_pos byte, taken]
    obtain ⟨pend', eq⟩ := cause { cabins := s.cabin.cabins.modify i (s.homed (vecByte w.data (o + 1))), pend := pend
                                  badHome := if i < s.cabin.cabins.length ∧ 11 < (vecByte w.data (o + 1)).toNat then
                                    satInc s.cabin.badHome else s.cabin.badHome }
    have recorded : s.recorded o w seq = fun c => Cabin.routine s.cfg.timing.refreshSeconds
        { s.homed (vecByte w.data (o + 1)) c with lastWrite := some seq } :=
      funext fun c => by rw [State.recorded, if_pos byte]
    rw [eq, composed, recorded]
    simp only [byte, true_and]
    exact ⟨pend', rfl⟩
  · have recorded : s.recorded o w seq = fun c => Cabin.routine s.cfg.timing.refreshSeconds { c with lastWrite := some seq } :=
      funext fun c => by rw [State.recorded, if_neg byte]
    obtain ⟨pend', eq⟩ := cause s.cabin
    simp only [if_neg byte]
    rw [eq, List.modify_modify_eq, recorded, if_neg fun h => byte h.2.1]
    exact ⟨pend', rfl⟩

theorem State.cabinRecord_eq (s : State) (i o : Nat) (w : WriteLine) (seq : Nat) : ∃ pend, s.cabinRecord i o w seq = { s with cabin :=
    { cabins := s.cabin.cabins.modify i fun c => if anyEnabled w.en o 32 = true then s.recorded o w seq c else c, pend := pend
      badHome := if i < s.cabin.cabins.length ∧ anyEnabled w.en (o + 1) 1 = true ∧ 11 < (vecByte w.data (o + 1)).toNat
        then satInc s.cabin.badHome else s.cabin.badHome } } := by
  unfold State.cabinRecord
  by_cases written : i < s.cabin.cabins.length ∧ anyEnabled w.en o 32 = true
  · simp only [if_pos written, if_pos written.2]
    exact s.cabinWritten_eq i o w seq
  · rw [if_neg written, if_neg fun h => written ⟨h.1, anyEnabled_of_byte h.2.1⟩, modify_self fun c found => ?_]
    · exact ⟨s.cabin.pend, rfl⟩
    · exact if_neg fun h => written ⟨(List.getElem?_eq_some_iff.1 found).1, h⟩

/-- The cabin `d` is `c` after its record has been written (R133, R134, R139). -/
structure State.RecordTaken (s : State) (o : Nat) (w : WriteLine) (seq : Nat) (c d : Cabin) : Prop where
  refresh : d.lastRefresh = c.lastRefresh
  write : d.lastWrite = some seq
  home : d.home = if h : anyEnabled w.en (o + 1) 1 = true ∧ (vecByte w.data (o + 1)).toNat < 12 then
    some ⟨(vecByte w.data (o + 1)).toNat, h.2⟩ else c.home
  changed : outsideNormal s.muster.state = true → s.shownStation c.home ≠ s.shownStation d.home →
    d.pend = .urgent ∧ d.eligible = (if c.pend = .urgent then c.eligible else s.time.uptime)
  kept : outsideNormal s.muster.state = false ∨ s.shownStation c.home = s.shownStation d.home → c.pend ≠ .none →
    d.pend = c.pend ∧ d.eligible = c.eligible
  waits : outsideNormal s.muster.state = false ∨ s.shownStation c.home = s.shownStation d.home → c.pend = .none →
    d.pend = .routine ∧ d.eligible = eligibleAfter c.lastRefresh s.cfg.timing.refreshSeconds
  flag : d.notified = (c.notified && !decide (c.pend = .routine ∧ d.pend = .urgent))

theorem Cabin.routine_keeps (interval : Nat) (c : Cabin) : (c.routine interval).home = c.home ∧
    (c.routine interval).lastRefresh = c.lastRefresh ∧ (c.routine interval).lastWrite = c.lastWrite ∧
    (c.routine interval).notified = c.notified := by
  unfold Cabin.routine
  cases c.pend <;> exact ⟨rfl, rfl, rfl, rfl⟩

theorem Cabin.routine_of_pend {c : Cabin} (interval : Nat) (h : c.pend ≠ .none) : c.routine interval = c := by
  unfold Cabin.routine
  cases pend : c.pend with
  | none => exact absurd pend h
  | routine | urgent => rfl

theorem Cabin.routine_of_none {c : Cabin} (interval : Nat) (h : c.pend = .none) : c.routine interval =
    { c with pend := .routine, eligible := eligibleAfter c.lastRefresh interval } := by
  simp only [Cabin.routine, h]

theorem State.recorded_taken (s : State) (o : Nat) (w : WriteLine) (seq : Nat) (c : Cabin) :
    s.RecordTaken o w seq c (s.recorded o w seq c) := by
  obtain ⟨x, x_eq⟩ : ∃ x, x = if anyEnabled w.en (o + 1) 1 = true then s.homed (vecByte w.data (o + 1)) c else c := ⟨_, rfl⟩
  have taken : s.HomeTaken c x := by
    rw [x_eq]
    split
    · exact s.homed_taken _ c
    · exact .refl s c
  have home : x.home = if h : anyEnabled w.en (o + 1) 1 = true ∧ (vecByte w.data (o + 1)).toNat < 12 then
      some ⟨(vecByte w.data (o + 1)).toNat, h.2⟩ else c.home := by
    rw [x_eq]
    by_cases byte : anyEnabled w.en (o + 1) 1 = true
    · simp only [byte, true_and, if_true, State.homed_home]
    · rw [if_neg byte, dif_neg fun h => byte h.1]
  have eq : s.recorded o w seq c = Cabin.routine s.cfg.timing.refreshSeconds { x with lastWrite := some seq } := by
    rw [State.recorded, x_eq]
  obtain ⟨sameHome, refresh, write, flag⟩ := Cabin.routine_keeps s.cfg.timing.refreshSeconds { x with lastWrite := some seq }
  have pending (h : x.pend ≠ .none) : Cabin.routine s.cfg.timing.refreshSeconds { x with lastWrite := some seq } =
      { x with lastWrite := some seq } := Cabin.routine_of_pend _ h
  have idle (h : x.pend = .none) := Cabin.routine_of_none (c := { x with lastWrite := some seq }) s.cfg.timing.refreshSeconds h
  rw [eq]
  refine ⟨refresh.trans taken.refresh, write, sameHome.trans home, fun outside differ => ?_, fun same pend => ?_,
    fun same none_ => ?_, ?_⟩
  · rw [sameHome] at differ
    obtain ⟨urgent, eligible⟩ := taken.changed outside differ
    rw [pending (by rw [urgent]; nofun)]
    exact ⟨urgent, eligible⟩
  · rw [sameHome] at same
    obtain ⟨samePend, eligible⟩ := taken.same same
    rw [pending (samePend ▸ pend)]
    exact ⟨samePend, eligible⟩
  · rw [sameHome] at same
    obtain ⟨samePend, -⟩ := taken.same same
    rw [idle (samePend.trans none_)]
    exact ⟨rfl, by rw [← taken.refresh]⟩
  · rw [flag]
    by_cases none_ : x.pend = .none
    · rw [idle none_, taken.flag, none_]
      simp
    · rw [pending none_]
      exact taken.flag

/-! ## A delivered cabin line (R134, R143) -/

/-- A cabin after line `k` of the cabin table has been delivered, before its notices (R134). -/
def State.lineTaken (s : State) (k : Nat) (w : WriteLine) (seq i : Nat) (c : Cabin) : Cabin :=
  if i / 2 = k ∧ anyEnabled w.en (32 * (i % 2)) 32 = true then s.recorded (32 * (i % 2)) w seq c else c

theorem State.cabinRecords_eq (s : State) (k : Nat) (w : WriteLine) (seq : Nat) : ∃ pend,
    (s.cabinRecord (2 * k) 0 w seq).cabinRecord (2 * k + 1) 32 w seq = { s with cabin :=
      { cabins := s.cabin.cabins.mapIdx (s.lineTaken k w seq), pend := pend
        badHome := satAdd s.cabin.badHome ((List.range 2).countP fun j => decide (2 * k + j < s.cabin.cabins.length) &&
          anyEnabled w.en (32 * j + 1) 1 && decide (11 < (vecByte w.data (32 * j + 1)).toNat)) } } := by
  obtain ⟨pend, first⟩ := s.cabinRecord_eq (2 * k) 0 w seq
  rw [first]
  obtain ⟨pend', second⟩ := State.cabinRecord_eq { s with cabin :=
    { cabins := s.cabin.cabins.modify (2 * k) fun c => if anyEnabled w.en 0 32 = true then s.recorded 0 w seq c else c, pend := pend
      badHome := if 2 * k < s.cabin.cabins.length ∧ anyEnabled w.en (0 + 1) 1 = true ∧ 11 < (vecByte w.data (0 + 1)).toNat
        then satInc s.cabin.badHome else s.cabin.badHome } } (2 * k + 1) 32 w seq
  refine ⟨pend', second.trans ?_⟩
  refine congrArg₂ (fun l n => { s with cabin := { cabins := l, pend := pend', badHome := n } }) ?_ ?_
  · refine List.ext_getElem? fun i => ?_
    rw [List.getElem?_modify, List.getElem?_modify, List.getElem?_mapIdx]
    cases found : s.cabin.cabins[i]? with
    | none => simp
    | some c =>
      simp only [Option.map_eq_map, Option.map_some, State.lineTaken]
      by_cases even : 2 * k = i
      · rw [if_pos even, if_neg (by omega), show i / 2 = k by omega, show i % 2 = 0 by omega]
        simp
      · by_cases odd : 2 * k + 1 = i
        · rw [if_neg even, if_pos odd, show i / 2 = k by omega, show i % 2 = 1 by omega]
          simp only [Nat.mul_one, true_and]
          rfl
        · rw [if_neg even, if_neg odd, if_neg (show ¬ (i / 2 = k ∧ _) by omega)]
  · have both (p q : Prop) [Decidable p] [Decidable q] (n : Nat) : (if q then satInc (if p then satInc n else n)
        else if p then satInc n else n) = satAdd n ((if p then 1 else 0) + if q then 1 else 0) := by
      by_cases p <;> by_cases q <;> simp [*, ← satAdd_satInc, satAdd_zero]
    dsimp only
    rw [List.length_modify, both]
    refine congrArg (satAdd _) ?_
    simp [List.range_succ, List.countP_cons, and_assoc]
    exact Nat.add_comm _ _

/-- A cabin's part in the notices of its line (R143). -/
theorem State.lineTaken_flag (s : State) (k : Nat) (w : WriteLine) (seq i : Nat) (c : Cabin) :
    (s.lineTaken k w seq i c).notified =
      (c.notified && !decide (c.pend = .routine ∧ (s.lineTaken k w seq i c).pend = .urgent)) := by
  unfold State.lineTaken
  split
  · exact (s.recorded_taken _ w seq c).flag
  · exact (State.HomeTaken.refl s c).flag

theorem Cabin.FlagFrom.of_risen {c d : Cabin} (h : d.notified = (c.notified && !decide (c.pend = .routine ∧ d.pend = .urgent))) :
    c.FlagFrom d := by
  rw [Cabin.FlagFrom, h]
  cases c.notified <;> simp

/-- The notified flag after a moment's notices (R141, R143). -/
theorem Cabin.told_notified_iff {now : Word} {c d : Cabin}
    (h : d.notified = (c.notified && !decide (c.pend = .routine ∧ d.pend = .urgent))) :
    (d.told now).notified = true ↔ (d.pend ≠ .none ∧ d.eligible.toNat ≤ now.toNat) ∨
      (c.notified = true ∧ ¬ (c.pend = .routine ∧ d.pend = .urgent)) := by
  rw [Cabin.told_eq, h]
  simp only [Bool.or_eq_true, Bool.and_eq_true, Bool.not_eq_true', decide_eq_true_iff, decide_eq_false_iff_not]
  exact or_comm

/-- What a delivered cabin line changes (R134, R143). -/
theorem State.deliverCabin_taken (s : State) (k : Nat) (w : WriteLine) (seq : Nat) : ∃ pend,
    let bad := (List.range 2).countP fun j => decide (2 * k + j < s.cabin.cabins.length) &&
      anyEnabled w.en (32 * j + 1) 1 && decide (11 < (vecByte w.data (32 * j + 1)).toNat)
    let t : State := { s with cabin :=
      { cabins := s.cabin.cabins.mapIdx fun i c => (s.lineTaken k w seq i c).told s.time.uptime, pend := pend
        badHome := satAdd s.cabin.badHome bad } }
    s.deliverCabin k w seq = { t with notice := (cabinNotices s t).foldl NoticeUnit.push s.notice } := by
  obtain ⟨pend, taken⟩ := s.cabinRecords_eq k w seq
  refine ⟨pend, ?_⟩
  intro bad t
  rw [State.deliverCabin, taken]
  let u : State := { s with cabin := { cabins := s.cabin.cabins.mapIdx (s.lineTaken k w seq), pend := pend
                                       badHome := satAdd s.cabin.badHome bad } }
  have notices : u.dueNotices = cabinNotices s u.notifyCabins := by
    refine State.dueNotices_eq fun i d _ found _ => ?_
    rw [show u.cabin.cabins = s.cabin.cabins.mapIdx (s.lineTaken k w seq) from rfl, List.getElem?_mapIdx] at found
    cases before : s.cabin.cabins[i]? with
    | none => rw [before] at found; cases found
    | some c =>
      rw [before, Option.map_some, Option.some_inj] at found
      exact ⟨c, rfl, .of_risen (found ▸ s.lineTaken_flag k w seq i c)⟩
  have told : u.cabin.cabins.map (Cabin.told s.time.uptime) =
      s.cabin.cabins.mapIdx fun i c => (s.lineTaken k w seq i c).told s.time.uptime := List.ext_getElem? fun i => by
    rw [List.getElem?_map, List.getElem?_mapIdx, List.getElem?_mapIdx, Option.map_map]
    rfl
  have after : u.notifyCabins = { t with notice := u.dueNotices.foldl NoticeUnit.push s.notice } := by
    rw [State.notifyCabins_eq]
    exact congrArg (fun l => { t with
      cabin := { t.cabin with cabins := l }, notice := u.dueNotices.foldl NoticeUnit.push s.notice }) told
  have same : cabinNotices s u.notifyCabins = cabinNotices s t := by
    rw [after]
    rfl
  exact after.trans (congrArg (fun ns : List Notice => { t with notice := ns.foldl NoticeUnit.push s.notice }) (notices.trans same))

/-- Settles O34. -/
theorem cabinLineTaken : Obligations.CabinLineTaken := by
  intro tag k w s v started window inside fits class_ room due shown outside value
  have runs := execCabinRecordWrite_eq tag w started window inside fits class_ room
  obtain ⟨pend, taken⟩ := (s.tableLine v .cabins k.val w).deliverCabin_taken k.val w s.path.seq
  rw [taken] at runs
  have outside_iff : outside ↔ outsideNormal s.muster.state = true := (outsideNormal_iff _).symm
  have shown_eq (h : Option StationIx) : shown h = s.shownStation h := (shownStation_eq s h).symm
  have at_ (i : Nat) (c : Cabin) (found : s.cabin.cabins[i]? = some c) :
      (s.cabin.cabins.mapIdx fun i c => ((s.tableLine v .cabins k.val w).lineTaken k.val w s.path.seq i c).told s.time.uptime)[i]? =
        some ((s.lineTaken k.val w s.path.seq i c).told s.time.uptime) := by
    rw [List.getElem?_mapIdx, found]
    rfl
  refine ⟨_, runs, ?_⟩
  rw [(settle_follows s _).1]
  refine ⟨fun j c small enabled found => ⟨_, at_ _ c found, ?_⟩, fun i c found other => ⟨_, at_ i c found, ?_⟩, ?_, ?_,
    touch_touched s.cmd.rescan .cabins k.val w.en, rfl, rfl⟩
  · have record : s.lineTaken k.val w s.path.seq (2 * k.val + j) c = s.recorded (32 * j) w s.path.seq c := by
      have half : (2 * k.val + j) / 2 = k.val ∧ (2 * k.val + j) % 2 = j := by omega
      rw [State.lineTaken, half.1, half.2, if_pos ⟨rfl, enabled⟩]
    have h := s.recorded_taken (32 * j) w s.path.seq c
    have flag := Cabin.told_notified_iff (now := s.time.uptime) h.flag
    rw [record]
    rw [Cabin.told_eq] at flag ⊢
    refine ⟨h.refresh, h.write, h.home, fun out differ => ?_, fun same => ⟨fun pending => ?_, fun none_ => ?_⟩, flag⟩
    · rw [shown_eq, shown_eq] at differ
      exact h.changed (outside_iff.1 out) differ
    · rw [outside_iff, Bool.not_eq_true, shown_eq, shown_eq] at same
      exact h.kept same pending
    · rw [outside_iff, Bool.not_eq_true, shown_eq, shown_eq] at same
      obtain ⟨routine, eligible⟩ := h.waits same none_
      exact ⟨routine, fun fits => (congrArg BitVec.toNat eligible).trans (eligibleAfter_toNat fits)⟩
  · have same : s.lineTaken k.val w s.path.seq i c = c := by
      rw [State.lineTaken, if_neg]
      rintro ⟨own, enabled⟩
      obtain no | no := other
      · exact no own
      · rw [no] at enabled
        cases enabled
    have flag := Cabin.told_notified_iff (now := s.time.uptime) (State.HomeTaken.refl s c).flag
    rw [same]
    rw [Cabin.told_eq] at flag ⊢
    refine ⟨rfl, flag.trans (or_congr Iff.rfl (and_iff_left ?_))⟩
    rintro ⟨routine, urgent⟩
    rw [routine] at urgent
    cases urgent
  · rintro bad rfl
    rfl
  · exact NoticesHanded.of_pushed _ rfl

end Sys2Proof.Machine

/-! SUPPORT. The commands of an open slot: each runs at its write and ends with its result, done or refused in the
order of its tests (R25, R26, R61 to R67, R75, R82, R110 to R112, R126, R147 to R152). -/

namespace Sys2Proof.Machine

open Sys2Proof

set_option Elab.async false

/-! ## A command of an open slot (R147 to R149) -/

/-- A command of the slot is the arrival of its write (log 4). -/
theorem exec_slotCommand {c : Instr} {code seq : Byte} {args : List Word} (h : slotCommand c = some (code, seq, args))
    (s : State) : exec c s = commit s (s.commandWrite code seq args) := by
  cases c <;> simp only [slotCommand, Option.some.injEq, Prod.mk.injEq, reduceCtorEq] at h <;>
    (obtain ⟨rfl, rfl, rfl⟩ := h; rfl)

section OpenSlot

variable {s : State} {base : Addr} {c : Instr} {code seq : Byte} {args : List Word}

theorem exec_open (slot : s.slotOpen base) (command : slotCommand c = some (code, seq, args)) (hc : code ≠ 0) :
    exec c s = commit s ((s.slotWritten base code seq args).startCommand code.toNat) := by
  rw [exec_slotCommand command, commandWrite_open slot code seq args hc]

/-- A command that ends where the IWQ has a free entry has placed its result (R149). -/
theorem runsTo_placed (slot : s.slotOpen base) (command : slotCommand c = some (code, seq, args)) (hc : code ≠ 0)
    {u : State} {r : CmdResult} (room : u.path.iwq = s.path.iwq)
    (ends : (s.slotWritten base code seq args).startCommand code.toNat = u.endCommand r) : RunsTo c s (u.placeResult r) := by
  refine runsTo_commit ?_
  rw [exec_open slot command hc, ends, endCommand_room]
  rw [room]
  exact slot.2.2.2.2

/-- A command that is refused changes nothing but the slot (R148, R149). -/
theorem runsTo_refused (slot : s.slotOpen base) (command : slotCommand c = some (code, seq, args)) (hc : code ≠ 0)
    {r : CmdResult}
    (ends : (s.slotWritten base code seq args).startCommand code.toNat = (s.slotWritten base code seq args).endCommand r) :
    RunsTo c s ((s.slotWritten base code seq args).placeResult r) :=
  runsTo_placed slot command hc rfl ends

/-- A command that ends with a plain result, after changes beside the path, the port and the slot (R148, R149). -/
theorem exec_commandEnds (slot : s.slotOpen base) (command : slotCommand c = some (code, seq, args)) (hc : code ≠ 0)
    {u : State} {o : CmdOutcome} {detail : Word}
    (ends : (s.slotWritten base code seq args).startCommand code.toNat = u.endCommand { outcome := o, detail := detail })
    (path : u.path = (s.slotWritten base code seq args).path) (port : u.port = (s.slotWritten base code seq args).port)
    (cfg : u.cfg = s.cfg) (cmd : u.cmd = { (s.slotWritten base code seq args).cmd with maint := u.cmd.maint }) :
    ∃ t, exec c s = .next t ∧ CommandEnds s t base code seq args o detail ∧ t.cmd.maint = u.cmd.maint ∧
      t = { u with port := t.port, path := t.path, cmd := t.cmd, notice := { u.notice with dirty := t.notice.dirty } } := by
  have follows := settle_follows s (u.endCommand { outcome := o, detail := detail })
  obtain ⟨ended, maint⟩ := commandEnds_of slot path port cfg cmd follows
  refine ⟨_, (exec_open slot command hc).trans (congrArg (commit s) ends), ended, maint, ?_⟩
  have room : u.path.iwq.length < Config.iwqSize := by rw [path]; exact slot.2.2.2.2
  rw [endCommand_room _ room] at follows ⊢
  rw [follows.1]
  rfl

end OpenSlot

/-! ## Muster commands (R61 to R67) -/

/-- Settles O36. -/
theorem musterCommandsWithoutChange : Obligations.MusterCommandsWithoutChange := by
  refine ⟨fun tag seq s base slot muster => ?_, ?_⟩
  · refine runsTo_placed slot (c := .musterOrder tag seq) rfl (by decide) rfl ?_
    have repeated : (s.slotWritten base 3 seq []).orderMuster .command = { s.slotWritten base 3 seq [] with
        muster := { s.muster with repeats := min (s.muster.repeats + 1) 65535 } } := by
      simp only [State.orderMuster, show (s.slotWritten base 3 seq []).muster = s.muster from rfl, muster]
      rfl
    show ((s.slotWritten base 3 seq []).orderMuster .command).endMuster .done = _
    rw [repeated]
    rfl
  · intro tag seq s base slot refused
    refine ⟨fun other => ?_, fun other => ?_, fun other => ?_, fun muster asserted => ?_, fun other => ?_⟩
    · exact runsTo_refused slot rfl (by decide) (if_neg other)
    · exact runsTo_refused slot rfl (by decide) (if_neg other)
    · exact runsTo_refused slot rfl (by decide) (if_pos other)
    · exact runsTo_refused slot rfl (by decide) ((if_neg (not_not.2 muster)).trans (if_pos asserted))
    · exact runsTo_refused slot rfl (by decide) (if_neg other)

/-! ## The maintenance window (R25, R26) -/

@[simp] theorem State.slotWritten_isReady (s : State) (base : Addr) (code seq : Byte) (args : List Word) :
    (s.slotWritten base code seq args).isReady = s.isReady := rfl

@[simp] theorem State.slotWritten_arrowScreens (s : State) (base : Addr) (code seq : Byte) (args : List Word) :
    (s.slotWritten base code seq args).arrowScreens = s.arrowScreens := rfl

/-- Settles O41. -/
theorem windowCommands : Obligations.WindowCommands := by
  refine ⟨fun tag seq s base slot ready => ⟨fun level normal shut => ?_, fun isOpen => ?_⟩, ?_⟩
  · refine runsTo_placed slot (c := .openWindow tag seq) rfl (by decide) rfl ?_
    show State.cmdOpenWindow _ = _
    simp [State.cmdOpenWindow, ready, level, normal, shut]
  · refine runsTo_placed slot (c := .closeWindow tag seq) rfl (by decide) rfl ?_
    show State.cmdCloseWindow _ = _
    have isOpen : s.cmd.maint.isNone = false := by cases h : s.cmd.maint <;> simp_all
    simp only [State.cmdCloseWindow, State.slotWritten_isReady, ready, State.slotWritten_maint, isOpen]
    rfl
  · intro tag seq s base slot ready refused
    refine ⟨fun low => ?_, fun level other => ?_, fun level normal isOpen => ?_, fun shut => ?_⟩ <;>
      refine runsTo_refused slot rfl (by decide) ?_
    · show State.cmdOpenWindow _ = _
      simp [State.cmdOpenWindow, ready, low]
    · show State.cmdOpenWindow _ = _
      simp [State.cmdOpenWindow, ready, level, other]
    · show State.cmdOpenWindow _ = _
      simp [State.cmdOpenWindow, ready, level, normal, isOpen]
    · show State.cmdCloseWindow _ = _
      simp [State.cmdCloseWindow, ready, shut]

/-! ## The ring (R152) -/

/-- An order to an empty ring with a valid descriptor (R152). -/
theorem State.cmdSetRing_done {s : State} (empty : s.notice.head = s.notice.tail) (low : 16 ≤ s.notice.descCount)
    (high : s.notice.descCount ≤ 1024) (watermark : 1 ≤ s.notice.descWatermark)
    (below : s.notice.descWatermark ≤ s.notice.descCount - 1)
    (fits : s.notice.descBase.toNat + s.notice.descCount * 16 ≤ 4294967296) :
    s.cmdSetRing = State.endCommand { s with notice := NoticeUnit.evalIrq { s.notice with
      ring := { base := s.notice.descBase, count := s.notice.descCount, watermark := s.notice.descWatermark }
      head := 0, tail := 0, urgent := none, tailDue := true } }
      { outcome := .done, detail := BitVec.ofNat 32 s.notice.descCount } := by
  have fits : ¬ ringFits s.notice.descBase s.notice.descCount = false := by simpa [ringFits] using fits
  have size : ¬ (s.notice.descCount < 16 ∨ 1024 < s.notice.descCount) := by omega
  have mark : ¬ (s.notice.descWatermark < 1 ∨ s.notice.descCount - 1 < s.notice.descWatermark) := by omega
  simp only [State.cmdSetRing, if_neg (not_not.2 empty), if_neg size, if_neg mark, if_neg fits]

/-- Settles O45: the ring that is moved is empty, so that the IRQ line falls. -/
theorem setRingMoves : Obligations.SetRingMoves := by
  intro tag seq s base slot empty d low high watermark below fits
  refine runsTo_placed slot (c := .setRing tag seq) rfl (by decide) rfl ?_
  have irq : NoticeUnit.irqCondition { d with
      ring := { base := d.descBase, count := d.descCount, watermark := d.descWatermark }
      head := 0, tail := 0, urgent := none, tailDue := true } = false := by
    have unread : (0 + d.descCount - 0) % d.descCount = 0 := by simp
    simp only [NoticeUnit.irqCondition, NoticeUnit.unread, NoticeUnit.ahead, unread, Option.isSome_none, Bool.or_false,
      decide_eq_false_iff_not]
    omega
  refine (State.cmdSetRing_done (s := s.slotWritten base 17 seq []) empty low high watermark below fits).trans ?_
  have falls : NoticeUnit.evalIrq { d with
      ring := { base := d.descBase, count := d.descCount, watermark := d.descWatermark }
      head := 0, tail := 0, urgent := none, tailDue := true } = { d with
      ring := { base := d.descBase, count := d.descCount, watermark := d.descWatermark }
      head := 0, tail := 0, urgent := none, tailDue := true, irq := false } :=
    congrArg (fun b => { d with
      ring := { base := d.descBase, count := d.descCount, watermark := d.descWatermark }
      head := 0, tail := 0, urgent := none, tailDue := true, irq := b }) irq
  exact congrArg (fun n => State.endCommand { s.slotWritten base 17 seq [] with notice := n }
    { outcome := .done, detail := BitVec.ofNat 32 d.descCount }) falls

/-! ## Unknown codes, code 0 and refusals (R75, R82, R110 to R112, R126, R150 to R152) -/

theorem State.startCommand_unknown {s : State} {code : Nat} (h : 18 ≤ code) :
    s.startCommand code = s.endCommand { outcome := .unknown } := by
  obtain ⟨n, rfl⟩ := Nat.exists_eq_add_of_le' h
  rfl

section Arguments

variable (s : State) (base : Addr) (code seq : Byte) (a b c : Word)

@[simp] theorem slotWritten_arg_of_one : (s.slotWritten base code seq [a]).arg 0 = a.toNat :=
  congrArg BitVec.toNat (slotWritten_arg s base code seq a 0 0).1

@[simp] theorem slotWritten_args_of_two : (s.slotWritten base code seq [a, b]).arg 0 = a.toNat ∧
    (s.slotWritten base code seq [a, b]).arg 1 = b.toNat := by
  obtain ⟨-, first, second, -⟩ := slotWritten_arg s base code seq a b 0
  exact ⟨congrArg BitVec.toNat first, congrArg BitVec.toNat second⟩

@[simp] theorem slotWritten_args_of_three : (s.slotWritten base code seq [a, b, c]).arg 0 = a.toNat ∧
    (s.slotWritten base code seq [a, b, c]).arg 1 = b.toNat ∧
    (s.slotWritten base code seq [a, b, c]).arg 2 = c.toNat ∧
    (s.slotWritten base code seq [a, b, c]).argWord 2 = c := by
  obtain ⟨-, -, -, first, second, third⟩ := slotWritten_arg s base code seq a b c
  exact ⟨congrArg BitVec.toNat first, congrArg BitVec.toNat second, congrArg BitVec.toNat third, third⟩

end Arguments

/-- Code 0 in the command word starts nothing (R147). -/
theorem execPspWrite_code_zero {tag : Tag} {first : LineNo} {seq : Byte} {args : List Word} {s : State}
    (started : s.started = true) (control : s.cfg.control = some (lineAddr first)) (room : s.path.pwq.length < 32) :
    RunsTo (.pspWrite { tag, first, lines := [slotLine 0 seq args] }) s { s with
      port := { s.port with psp := some .accept }
      path := { s.path with
        pwq := s.path.pwq ++ [{ addr := lineAddr first, data := (slotLine 0 seq args).data
                                en := (slotLine 0 seq args).en, seq := s.path.seq }]
        seq := s.path.seq + 1 }
      cmd := { s.cmd with copy := sliceBytes (slotLine 0 seq args).data 0 } } := by
  obtain ⟨class_, line⟩ := classOf_base control
  refine runsTo_commit ?_
  show commit s (s.writeArrives (lineAddr first) [slotLine 0 seq args]) = _
  rw [State.writeArrives_line _ started (by rw [class_]; decide) room, State.deliverLine_control (s := s.accepted _) class_]
  change commit s (State.deliverControl _ (indexIn s.cfg.controlWindow (lineAddr first)) _) = _
  rw [line, State.deliverControl, State.deliverSlot, slotLine_merge, if_pos (slotLine_word 0 seq args), State.actOnWord]
  simp only [slotCopy_code, if_true]
  rfl

theorem BitVec_eq_255 (a : Word) : a.toNat = 255 ↔ a = 255 := by
  rw [← BitVec.toNat_inj]
  rfl

/-- The selectors of PUBLISH PAGE that are its values or ALL (R82). -/
theorem selectorsValid_iff (a b c : Word) :
    (selectorValid a.toNat 12 && selectorValid b.toNat 4 && selectorValid c.toNat 3) = true ↔
      (a.toNat < 12 ∨ a = 255) ∧ (b.toNat < 4 ∨ b = 255) ∧ (c.toNat < 3 ∨ c = 255) := by
  simp only [selectorValid, Bool.and_eq_true, Bool.or_eq_true, decide_eq_true_iff, BitVec_eq_255, and_assoc]

/-- A shift is in range, as R111 says it. -/
def ShiftInRange (day minute : Nat) (minutes : Int) : Prop :=
  day ≤ 255 ∧ minute ≤ 1439 ∧ minutes ≠ 0 ∧ minutes % 15 = 0 ∧ -120 ≤ minutes ∧ minutes ≤ 120 ∧
    0 ≤ (minute : Int) + minutes ∧ (minute : Int) + minutes ≤ 1439

theorem shiftValid_iff (minutes : Int) :
    shiftValid minutes = false ↔ ¬ (minutes ≠ 0 ∧ minutes % 15 = 0 ∧ -120 ≤ minutes ∧ minutes ≤ 120) := by
  rw [← Bool.not_eq_true]
  simp only [shiftValid, Bool.and_eq_true, decide_eq_true_iff, and_assoc]

theorem State.cmdScheduleShift_range {s : State} {day minute : Nat} {minutes : Int} (h : ¬ ShiftInRange day minute minutes) :
    s.cmdScheduleShift day minute minutes = s.endCommand { outcome := .refusedRange } := by
  unfold State.cmdScheduleShift
  split
  · rfl
  · split
    · rfl
    · split
      · rfl
      next day_ valid moved =>
        rw [shiftValid_iff, not_not] at valid
        exact absurd (by unfold ShiftInRange; omega) h

theorem State.cmdScheduleShift_good {s : State} {day minute : Nat} {minutes : Int} (h : ShiftInRange day minute minutes) :
    s.cmdScheduleShift day minute minutes =
      if s.prog.clockSet = false then s.endCommand { outcome := .refusedState }
      else State.endCommand { s with prog := { s.prog with shift := some { day, minute, minutes } } }
        { outcome := .done, detail := if s.prog.shift.isSome then 1 else 0 } := by
  unfold ShiftInRange at h
  have valid : ¬ shiftValid minutes = false := by rw [shiftValid_iff, not_not]; omega
  rw [State.cmdScheduleShift, if_neg (by omega), if_neg valid, if_neg (by omega)]

/-- An order to an empty ring with a descriptor out of range (R152). -/
theorem State.cmdSetRing_range {s : State} (empty : s.notice.head = s.notice.tail)
    (range : s.notice.descCount < 16 ∨ 1024 < s.notice.descCount ∨ s.notice.descWatermark < 1 ∨
      s.notice.descCount - 1 < s.notice.descWatermark ∨
      4294967296 < s.notice.descBase.toNat + s.notice.descCount * 16) :
    s.cmdSetRing = s.endCommand { outcome := .refusedRange } := by
  unfold State.cmdSetRing
  dsimp only
  rw [if_neg (not_not.2 empty)]
  split
  · rfl
  · split
    · rfl
    · split
      · rfl
      next size mark fits =>
        have fits : s.notice.descBase.toNat + s.notice.descCount * 16 ≤ 4294967296 := by simpa [ringFits] using fits
        omega

theorem State.cmdPublishPage_ready {s : State} (ready : s.isReady = true) (a b c : Nat) : s.cmdPublishPage a b c =
    if (selectorValid a 12 && selectorValid b 4 && selectorValid c 3) = false then s.endCommand { outcome := .refusedRange }
    else if s.muster.state ≠ .normal then s.endCommand { outcome := .refusedState }
    else State.endCommand { s with station := { s.station with pages := publish s.station.pages a b c } }
      { outcome := .done, detail := BitVec.ofNat 32 (publishCount s.station.pages a b c) } := by
  rw [State.cmdPublishPage, if_neg (by rw [ready]; nofun)]

/-- Settles O46. -/
theorem commandsWithoutEffect : Obligations.CommandsWithoutEffect := by
  refine ⟨fun tag seq code s base slot unknown => ?_, fun tag first seq args s started control room =>
    execPspWrite_code_zero started control room, ?_⟩
  · exact runsTo_refused slot rfl (by rintro rfl; simp at unknown) (State.startCommand_unknown unknown)
  · intro tag seq a b c s base slot refused
    refine ⟨fun degraded noTable => ?_, fun table => ⟨fun range => ?_, fun range => ?_⟩, fun range => ?_, ⟨fun range => ?_, fun good unset => ?_⟩,
      fun ready => ⟨⟨fun range => ?_, fun good other => ?_⟩, fun range => ?_, fun range => ?_, fun t isTable disabled => ?_⟩,
      ⟨fun waiting => ?_, fun empty range => ?_⟩⟩
    · have ready : s.isReady = false := by rw [State.isReady, degraded]; rfl
      refine ⟨?_, ?_, ?_, ?_, ?_, ?_, ?_, ?_⟩ <;> refine runsTo_refused slot rfl (by decide) ?_
      · show State.cmdStationClose _ _ = _
        simp [State.cmdStationClose, State.withStation, noTable]
      · show State.cmdStationOpen _ _ = _
        simp [State.cmdStationOpen, State.withStation, noTable]
      · show State.cmdSetAlternate _ _ _ = _
        simp [State.cmdSetAlternate, State.withStation, noTable]
      · show State.cmdPublishPage _ _ _ _ = _
        simp [State.cmdPublishPage, ready]
      · show State.cmdOpenWindow _ = _
        simp [State.cmdOpenWindow, ready]
      · show State.cmdCloseWindow _ = _
        simp [State.cmdCloseWindow, ready]
      · show State.cmdSetDefaultTarget _ _ _ = _
        simp [State.cmdSetDefaultTarget, ready]
      · show State.cmdRescan _ _ = _
        simp [State.cmdRescan, ready]
    · obtain ⟨t, table⟩ := Option.ne_none_iff_exists'.1 table
      have range : ¬ a.toNat < 12 := by omega
      constructor <;> refine runsTo_refused slot rfl (by decide) ?_
      · show State.cmdStationClose _ _ = _
        simp [State.cmdStationClose, State.withStation, table, range]
      · show State.cmdStationOpen _ _ = _
        simp [State.cmdStationOpen, State.withStation, table, range]
    · obtain ⟨t, table⟩ := Option.ne_none_iff_exists'.1 table
      refine runsTo_refused slot rfl (by decide) ?_
      show State.cmdSetAlternate _ _ _ = _
      by_cases station : a.toNat < 12
      · obtain ⟨alternate, other⟩ : ¬ b.toNat < 12 ∧ ¬ b.toNat = 255 := by
          rw [BitVec_eq_255]
          obtain far | ⟨high, other⟩ := range
          · exact absurd station (by omega)
          · exact ⟨by omega, other⟩
        simp [State.cmdSetAlternate, State.withStation, table, station, alternate, other]
      · simp [State.cmdSetAlternate, State.withStation, table, station]
    · refine runsTo_refused slot rfl (by decide) ?_
      show State.cmdSetClock _ _ _ = _
      simp only [State.cmdSetClock, slotWritten_args_of_two, if_pos range]
    · refine runsTo_refused slot rfl (by decide) ?_
      show State.cmdScheduleShift _ _ _ _ = _
      simp only [slotWritten_args_of_three]
      exact State.cmdScheduleShift_range fun good => range good
    · refine runsTo_refused slot rfl (by decide) ?_
      show State.cmdScheduleShift _ _ _ _ = _
      simp only [slotWritten_args_of_three]
      rw [State.cmdScheduleShift_good good]
      exact if_pos unset
    · refine runsTo_refused slot rfl (by decide) ?_
      show State.cmdPublishPage _ _ _ _ = _
      have range : (selectorValid a.toNat 12 && selectorValid b.toNat 4 && selectorValid c.toNat 3) = false :=
        Bool.eq_false_iff.2 fun valid => range ((selectorsValid_iff a b c).1 valid)
      simp only [slotWritten_args_of_three]
      rw [State.cmdPublishPage_ready ((s.slotWritten_isReady base 9 seq [a, b, c]).trans ready), if_pos range]
    · refine runsTo_refused slot rfl (by decide) ?_
      show State.cmdPublishPage _ _ _ _ = _
      have valid := (selectorsValid_iff a b c).2 good
      simp only [slotWritten_args_of_three]
      rw [State.cmdPublishPage_ready ((s.slotWritten_isReady base 9 seq [a, b, c]).trans ready), if_neg (by rw [valid]; nofun), State.slotWritten_muster, if_pos other]
    · refine runsTo_refused slot rfl (by decide) ?_
      show State.cmdSetDefaultTarget _ _ _ = _
      by_cases screen : s.screen.screens.length ≤ a.toNat
      · simp [State.cmdSetDefaultTarget, ready, screen]
      · simp [State.cmdSetDefaultTarget, ready, screen, range.resolve_left screen]
    · refine runsTo_refused slot rfl (by decide) ?_
      show State.cmdRescan _ _ = _
      have noTable : scanTableOf a.toNat = none := by
        obtain ⟨n, hn⟩ := Nat.exists_eq_add_of_lt range
        rw [hn, show 2 + n + 1 = n + 3 by omega]
        rfl
      simp [State.cmdRescan, ready, noTable]
    · refine runsTo_refused slot rfl (by decide) ?_
      show State.cmdRescan _ _ = _
      simp [State.cmdRescan, ready, isTable, disabled]
    · refine runsTo_refused slot rfl (by decide) ?_
      show State.cmdSetRing _ = _
      simp [State.cmdSetRing, waiting]
    · refine runsTo_refused slot rfl (by decide) ?_
      exact State.cmdSetRing_range (s := s.slotWritten base 17 seq []) empty range

/-! ## PUBLISH PAGE (R82, R83) -/

/-- The entries that a PUBLISH PAGE flips (R83). -/
def publishFlips (pages : List (Option Page)) (a b c : Nat) : List Nat :=
  (List.range pages.length).filter fun n => selectsEntry a b c n && ((pages[n]?).getD none).isSome

theorem mem_publishFlips {pages : List (Option Page)} {a b c n : Nat} :
    n ∈ publishFlips pages a b c ↔ selectsEntry a b c n = true ∧ ∃ p, pages[n]? = some (some p) := by
  simp only [publishFlips, List.mem_filter, List.mem_range, Bool.and_eq_true]
  constructor
  · rintro ⟨inside, selected, present⟩
    rw [List.getElem?_eq_getElem inside, Option.getD_some] at present
    obtain ⟨p, hp⟩ := Option.isSome_iff_exists.1 present
    exact ⟨selected, p, by rw [List.getElem?_eq_getElem inside, hp]⟩
  · rintro ⟨selected, p, present⟩
    exact ⟨(List.getElem?_eq_some_iff.1 present).1, selected, by rw [present]; rfl⟩

theorem publish_getElem? (pages : List (Option Page)) (a b c n : Nat) :
    (publish pages a b c)[n]? = pages[n]?.map fun p => if selectsEntry a b c n = true then flipPage p else p := by
  rw [publish, List.getElem?_mapIdx]

/-- A selector picks a value, as spec 05, section 5.4 says it. -/
theorem selects_iff (a : Word) (n : Nat) : selects a.toNat n = true ↔ a = 255 ∨ a.toNat = n := by
  simp only [selects, Bool.or_eq_true, decide_eq_true_iff, BitVec_eq_255]

/-- Settles O40. -/
theorem publishPageFlips : Obligations.PublishPageFlips := by
  intro tag seq a b c s base slot ready normal first second third picked
  have valid := (selectorsValid_iff a b c).2 ⟨first, second, third⟩
  have ends : (s.slotWritten base 9 seq [a, b, c]).startCommand (9 : Byte).toNat =
      State.endCommand { s.slotWritten base 9 seq [a, b, c] with
        station := { s.station with pages := publish s.station.pages a.toNat b.toNat c.toNat } }
        { outcome := .done, detail := BitVec.ofNat 32 (publishCount s.station.pages a.toNat b.toNat c.toNat) } := by
    show State.cmdPublishPage _ _ _ _ = _
    simp only [slotWritten_args_of_three]
    rw [State.cmdPublishPage_ready ((s.slotWritten_isReady base 9 seq [a, b, c]).trans ready),
      if_neg (by rw [valid]; nofun), State.slotWritten_muster, if_neg (not_not.2 normal)]
    rfl
  obtain ⟨t, runs, ended, maint, eq⟩ := exec_commandEnds slot (c := .publishPage tag seq a b c) rfl (by decide) ends rfl rfl rfl
    (by simp only [State.slotWritten])
  have pages : t.station.pages = publish s.station.pages a.toNat b.toNat c.toNat := by rw [eq]
  refine ⟨t, publishFlips s.station.pages a.toNat b.toNat c.toNat, runs, fun n => ?_, List.nodup_range.filter _,
    fun n p present flipped => ?_, fun n kept => ?_, ?_, ?_, ?_⟩
  · rw [mem_publishFlips, selectsEntry, Bool.and_eq_true, Bool.and_eq_true, selects_iff, selects_iff, selects_iff]
    exact and_congr and_assoc .rfl
  · rw [pages, publish_getElem?, present, Option.map_some, if_pos (mem_publishFlips.1 flipped).1]
    rfl
  · rw [pages, publish_getElem?]
    cases present : s.station.pages[n]? with
    | none => rfl
    | some p =>
      rw [Option.map_some]
      split
      next selected =>
        cases p with
        | none => rfl
        | some p => exact absurd (mem_publishFlips.2 ⟨selected, p, present⟩) kept
      · rfl
  · rw [eq]
  · have count : publishCount s.station.pages a.toNat b.toNat c.toNat =
        (publishFlips s.station.pages a.toNat b.toNat c.toNat).length := List.countP_eq_length_filter
    rw [← count]
    exact ended
  · have same : s.cmd.maint = t.cmd.maint := ((s.slotWritten_maint base 9 seq [a, b, c]).symm.trans maint.symm)
    have station : t.station = { s.station with pages := publish s.station.pages a.toNat b.toNat c.toNat } := by rw [eq]
    rw [same, station]
    exact eq

end Sys2Proof.Machine

/-! SUPPORT. The commands that set the clock, a default target or a station, and those that change the muster state
(R61 to R69, R75 to R78, R110 to R112, R123, R151). -/

namespace Sys2Proof.Machine

open Sys2Proof

set_option Elab.async false

/-! ## The ship's clock (R110 to R112) -/

/-- SET CLOCK in range (R110). -/
theorem State.cmdSetClock_done {s : State} {day second : Nat} (dayFits : day ≤ 255) (secondFits : second ≤ 86399) :
    s.cmdSetClock day second = (State.computeSelections { s with prog := { s.prog with
      clockSet := true, day := day, sec := second, phase := 0, shift := none } }).endCommand
      { outcome := .done, shiftCancelled := s.prog.shift.isSome } := by
  rw [State.cmdSetClock, if_neg (by omega)]

theorem resultFlags_shift (b : Bool) :
    resultFlags false { outcome := .done, shiftCancelled := b } = if b = true then 2 else 0 := by
  cases b <;> rfl

/-- The result word of a command that ends in the slot of its write (R149). -/
theorem resultEntry_of_slot {s u : State} {base : Addr} {code seq : Byte} {args : List Word} (r : CmdResult)
    (control : u.cfg.control = some base) (cmd : u.cmd = (s.slotWritten base code seq args).cmd) :
    u.resultEntry r = { kind := .result, addr := base, en := enablesAt 0x20 8
                        data := lineAt 0x20 ([seq, outcomeCode r.outcome, resultFlags false r, 0] ++ bytes32 r.detail) } := by
  rw [State.resultEntry, control, cmd]
  rfl

/-- Settles O42. -/
theorem clockCommandsDone : Obligations.ClockCommandsDone := by
  intro tag seq a b c s base slot
  refine ⟨fun day second => ?_, fun day minute nonzero quarter low high start finish set_ => ?_, ?_⟩
  · let w := s.slotWritten base 12 seq [a, b]
    let u := State.computeSelections { w with prog := { s.prog with
      clockSet := true, day := a.toNat, sec := b.toNat, phase := 0, shift := none } }
    let r : CmdResult := { outcome := .done, shiftCancelled := s.prog.shift.isSome }
    have ends : w.startCommand (12 : Byte).toNat = u.endCommand r := by
      show State.cmdSetClock _ _ _ = _
      simp only [w, slotWritten_args_of_two]
      rw [State.cmdSetClock_done day second]
      rfl
    have room : u.path.iwq.length < Config.iwqSize := slot.2.2.2.2
    have runs := (exec_open slot (c := .setClock tag seq a b) rfl (by decide)).trans (congrArg (commit s) ends)
    rw [endCommand_room r room] at runs
    obtain ⟨eq, writes, -⟩ := settle_follows s (u.placeResult r)
    obtain ⟨l, same, last⟩ := sameWrites_concat (l := s.path.iwq) (e := u.resultEntry r) writes (by intro i; simp [State.resultEntry])
    have entry := resultEntry_of_slot (s := s) (u := u) (code := 12) (seq := seq) (args := [a, b]) r slot.2.1 rfl
    rw [entry, show resultFlags false r = _ from resultFlags_shift _] at last
    refine ⟨_, runs, ?_⟩
    rw [eq]
    refine ⟨rfl, State.featured_handed ?_ rfl, ?_, ?_, ?_, ?_⟩
    · exact List.length_map ..
    · rw [← resultFlags_shift]
      simp only [State.placeResult, u, w, r, State.computeSelections, State.appendScreens, State.slotWritten]
      rfl
    · exact ⟨l, same, last⟩
    · rfl
    · rfl
  · refine runsTo_placed slot (c := .scheduleShift tag seq a b c) rfl (by decide) rfl ?_
    show State.cmdScheduleShift _ _ _ _ = _
    simp only [slotWritten_args_of_three]
    rw [State.cmdScheduleShift_good ⟨day, minute, nonzero, quarter, low, high, start, finish⟩,
      State.slotWritten_prog, if_neg (by rw [set_]; nofun)]
  · exact runsTo_placed slot (c := .cancelShift tag seq) rfl (by decide) rfl rfl

/-! ## A default target (R123, R151) -/

/-- What is filtered out of the numbers below a bound does not depend on the bound, where it lies below it. -/
theorem filter_range_of_le {p : Nat → Bool} {n m : Nat} (le : n ≤ m) (below : ∀ i, p i = true → i < n) :
    (List.range m).filter p = (List.range n).filter p := by
  obtain ⟨k, rfl⟩ := Nat.exists_eq_add_of_le le
  have above : ((List.range k).map (n + ·)).filter p = [] := List.filter_eq_nil_iff.2 fun i hi holds => by
    obtain ⟨j, -, rfl⟩ := List.mem_map.1 hi
    exact absurd (below _ holds) (by omega)
  rw [List.range_add, List.filter_append, above, List.append_nil]

theorem filter_range_eq {p : Nat → Bool} {n m : Nat} (n_ : ∀ i, p i = true → i < n) (m_ : ∀ i, p i = true → i < m) :
    (List.range m).filter p = (List.range n).filter p := by
  obtain le | le := Nat.le_total n m
  · exact filter_range_of_le le n_
  · exact (filter_range_of_le le m_).symm

theorem filter_range_single {p : Nat → Bool} {n a : Nat} (inside : a < n) (only : ∀ i, p i = true → i = a) :
    (List.range n).filter p = if p a = true then [a] else [] := by
  split
  next holds =>
    have same : (List.range n).filter p = (List.range n).filter (· == a) := List.filter_congr fun i _ => by
      rw [Bool.eq_iff_iff, beq_iff_eq]
      exact ⟨only i, fun h => h ▸ holds⟩
    rw [same, List.filter_beq, List.count_eq_one_of_mem List.nodup_range (List.mem_range.2 inside)]
    rfl
  next fails => exact List.filter_eq_nil_iff.2 fun i _ holds => fails (only i holds ▸ holds)

/-- Whether a screen's changed featured target is handed over, with the screen taken before or after (R96, R123). -/
theorem handOver_eq {u s : Option Screen} (a b : Option (Option Selection)) :
    u.map Screen.hasArrow = s.map Screen.hasArrow →
    ((match u with
      | some sc => sc.hasArrow
      | none => false) &&
    (match b, a with
      | some (some b), some (some a) => decide (b.featured ≠ a.featured)
      | _, _ => false)) =
    match s, a, b with
      | some sc, some (some a), some (some b) => sc.hasArrow && decide (a.featured ≠ b.featured)
      | _, _, _ => false := by
  intro arrow
  cases s with
  | none =>
    rw [Option.map_none, Option.map_eq_none_iff] at arrow
    rw [arrow]
    rfl
  | some sc =>
    obtain ⟨uc, rfl, same⟩ := Option.map_eq_some_iff.1 arrow
    dsimp only
    rw [same]
    rcases a with _ | _ | a <;> rcases b with _ | _ | b <;> simp [eq_comm]

/-- Changed featured targets are handed over alike whichever state's screens tell the ARROW panes (R96, R123). -/
theorem featuredHanded_of {s t u : State}
    (arrows : ∀ i : Nat, (u.screen.screens[i]?).map Screen.hasArrow = (s.screen.screens[i]?).map Screen.hasArrow)
    (work : t.route.work = (u.withArrow (featuredChanges s.prog.sel t.prog.sel)).foldl appendWork s.route.work) :
    FeaturedHanded s t := by
  rw [FeaturedHanded, work, State.withArrow, featuredChanges, List.filter_filter]
  refine congrArg (List.foldl appendWork s.route.work) ?_
  refine (List.filter_congr fun i _ => handOver_eq (s.prog.sel[i]?) (t.prog.sel[i]?) (arrows i)).trans ?_
  refine filter_range_eq (fun i holds => ?_) fun i holds => ?_
  · by_contra out
    rw [List.getElem?_eq_none (by omega)] at holds
    cases holds
  · by_contra out
    rw [List.getElem?_eq_none (l := t.prog.sel) (by omega)] at holds
    generalize s.screen.screens[i]? = x at holds
    generalize s.prog.sel[i]? = y at holds
    rcases x with _ | _ <;> rcases y with _ | _ | _ <;> cases holds

/-- SET DEFAULT TARGET of a present screen to a target in range (R151). -/
theorem State.cmdSetDefaultTarget_done {s : State} {screen target : Nat} (ready : s.isReady = true)
    (present : screen < s.screen.screens.length) (range : target ≤ 31) : s.cmdSetDefaultTarget screen target =
    ((s.modScreen screen fun c => { c with defaultTarget := target }).computeFeatured screen).endCommand
      { outcome := .done, detail := BitVec.ofNat 32 target } := by
  rw [State.cmdSetDefaultTarget, if_neg (by rw [ready]; nofun), if_neg (by omega), if_neg (by omega)]

/-- The featured target of a screen is computed with a new default target (R123, R151). -/
theorem State.defaultTarget_eq {s : State} {i : Nat} {sc : Screen} (target : Nat) (found : s.screen.screens[i]? = some sc) :
    let sel := s.prog.sel.modify i fun r => r.map fun v => { v with featured := s.prog.featuredField { sc with defaultTarget := target } }
    let u := s.modScreen i fun c => { c with defaultTarget := target }
    u.computeFeatured i = { u with
      prog := { s.prog with sel := sel }
      route := { s.route with work := (u.withArrow (featuredChanges s.prog.sel sel)).foldl appendWork s.route.work } } := by
  intro sel u
  have changed : u.screen.screens[i]? = some { sc with defaultTarget := target } := by
    show (s.screen.screens.modify i _)[i]? = _
    rw [List.getElem?_modify_eq, found]
    rfl
  rw [State.computeFeatured, changed]
  rfl

/-- Settles O43. -/
theorem defaultTargetSet : Obligations.DefaultTargetSet := by
  intro tag seq a b s base sc slot ready found range
  let w := s.slotWritten base 15 seq [a, b]
  have present := (List.getElem?_eq_some_iff.1 found).1
  let sel := s.prog.sel.modify a.toNat fun r => r.map fun v => { v with
    featured := s.prog.featuredField { sc with defaultTarget := b.toNat } }
  let u := w.modScreen a.toNat fun c => { c with defaultTarget := b.toNat }
  let work := (u.withArrow (featuredChanges s.prog.sel sel)).foldl appendWork s.route.work
  have ends : w.startCommand (15 : Byte).toNat =
      State.endCommand { u with prog := { s.prog with sel := sel }, route := { s.route with work := work } }
        { outcome := .done, detail := BitVec.ofNat 32 b.toNat } := by
    show State.cmdSetDefaultTarget _ _ _ = _
    simp only [w, slotWritten_args_of_two]
    rw [State.cmdSetDefaultTarget_done ((s.slotWritten_isReady base 15 seq [a, b]).trans ready) present range,
      State.defaultTarget_eq (s := s.slotWritten base 15 seq [a, b]) b.toNat found]
    rfl
  obtain ⟨t, runs, ended, maint, eq⟩ := exec_commandEnds slot (c := .setDefaultTarget tag seq a b) rfl (by decide) ends rfl rfl rfl
    (by simp only [u, State.modScreen, w, State.slotWritten])
  have featured (i : Nat) : sel[i]? = if a.toNat = i then s.prog.sel[i]?.map fun r => r.map fun v => { v with
      featured := s.prog.featuredField { sc with defaultTarget := b.toNat } } else s.prog.sel[i]? := by
    rw [List.getElem?_modify]
    split <;> simp
  have arrows (i : Nat) : (u.screen.screens[i]?).map Screen.hasArrow = (s.screen.screens[i]?).map Screen.hasArrow := by
    show ((s.screen.screens.modify a.toNat _)[i]?).map _ = _
    rw [List.getElem?_modify]
    cases s.screen.screens[i]? with
    | none => rfl
    | some c =>
      by_cases own : a.toNat = i <;> simp [own, Screen.hasArrow]
  have maint' : t.cmd.maint = s.cmd.maint := maint.trans (s.slotWritten_maint base 15 seq [a, b])
  have screen : t.screen = u.screen := by rw [eq]
  have prog : t.prog = { s.prog with sel := sel } := by rw [eq]
  have route : t.route = { s.route with work := work } := by rw [eq]
  refine ⟨t, runs, ?_, by rwa [BitVec.ofNat_toNat, BitVec.setWidth_eq] at ended, maint', fun r record => ?_, fun i other => ?_, fun r record => ?_, ?_, ?_⟩
  · rw [screen]
    exact congrArg (fun l => { s.screen with screens := l }) (modify_eq_set found _)
  · rw [prog, featured, if_pos rfl, record]
    rfl
  · rw [prog, featured, if_neg (Ne.symm other)]
  · have record' : sel[a.toNat]? = some (some { r with featured := s.prog.featuredField { sc with defaultTarget := b.toNat } }) := by
      rw [featured, if_pos rfl, record]
      rfl
    have inside : a.toNat < sel.length := (List.getElem?_eq_some_iff.1 record').1
    have arrow : u.screen.screens[a.toNat]? = some { sc with defaultTarget := b.toNat } := by
      show (s.screen.screens.modify a.toNat _)[a.toNat]? = _
      rw [List.getElem?_modify_eq, found]
      rfl
    have only (i : Nat) (changes : ((match u.screen.screens[i]? with
          | some sc => sc.hasArrow
          | none => false) &&
        (match sel[i]?, s.prog.sel[i]? with
          | some (some x), some (some y) => decide (x.featured ≠ y.featured)
          | _, _ => false)) = true) : i = a.toNat := by
      by_contra other
      rw [featured, if_neg (Ne.symm other), Bool.and_eq_true] at changes
      have changes := changes.2
      generalize s.prog.sel[i]? = x at changes
      rcases x with _ | _ | x <;> simp at changes
    have one : u.withArrow (featuredChanges s.prog.sel sel) = _ :=
      (List.filter_filter ..).trans (filter_range_single inside only)
    rw [route]
    show (u.withArrow (featuredChanges s.prog.sel sel)).foldl appendWork s.route.work = _
    rw [one]
    simp only [arrow, record', record, Bool.and_eq_true, decide_eq_true_iff, ne_eq]
    rw [apply_ite (List.foldl appendWork s.route.work)]
    rfl
  · exact featuredHanded_of arrows (by rw [route, prog])
  · rw [screen, prog, route]
    exact eq

end Sys2Proof.Machine

/-! SUPPORT. The station commands and the muster commands that change the state (R61 to R69, R75 to R78, R140). -/

namespace Sys2Proof.Machine

open Sys2Proof

set_option Elab.async false

/-! ## Causes of changed stations (R78, R140) -/

theorem Cabin.homeIn_iff (changed : List StationIx) (c : Cabin) :
    c.homeIn changed = true ↔ ∃ h ∈ changed, c.home = some h := by
  unfold Cabin.homeIn
  cases c.home with
  | none => simp
  | some h => simp

theorem UrgentSoon.flagFrom {now : Word} {c d : Cabin} (h : UrgentSoon now c d) : c.FlagFrom d := by
  obtain ⟨-, -, -, urgent, -, -, flag⟩ := h
  refine .of_risen (flag.trans ?_)
  rw [urgent]
  simp

/-- The causes and the notices of changed stations (R78, R140, R143). -/
theorem State.stationCauses_taken (s : State) (changed : List StationIx) : ∃ cabin : CabinUnit,
    s.stationCauses changed = { s with
      cabin := cabin
      notice := (if changed = [] then [] else cabinNotices s { s with cabin := cabin }).foldl NoticeUnit.push s.notice } ∧
    cabin.badHome = s.cabin.badHome ∧
    ∀ (i : Nat) (c : Cabin), s.cabin.cabins[i]? = some c → ∃ d, cabin.cabins[i]? = some d ∧
      ((∃ h ∈ changed, c.home = some h) → UrgentNow s.time.uptime c d) ∧
      ((∀ h ∈ changed, c.home ≠ some h) → d = { c with notified := d.notified }) := by
  by_cases none_ : changed = []
  · refine ⟨s.cabin, ?_, rfl, fun i c found => ⟨c, found, ?_, fun _ => rfl⟩⟩
    · rw [State.stationCauses, if_pos none_, if_pos none_]
      rfl
    · rw [none_]
      rintro ⟨h, mem, -⟩
      cases mem
  · let u : State := { s with cabin := s.cabin.urgentCauses s.time.uptime (Cabin.homeIn changed) }
    obtain ⟨length, badHome, causes⟩ := urgentCauses_spec s.cabin s.time.uptime (Cabin.homeIn changed)
    have notices : u.dueNotices = cabinNotices s u.notifyCabins := State.dueNotices_eq fun i d _ found _ => by
      have inside : i < s.cabin.cabins.length := length ▸ (List.getElem?_eq_some_iff.1 found).1
      obtain ⟨d', at_, urgent, same⟩ := causes i _ (List.getElem?_eq_getElem inside)
      obtain rfl := Option.some_inj.1 (found.symm.trans at_)
      refine ⟨_, List.getElem?_eq_getElem inside, ?_⟩
      by_cases home : Cabin.homeIn changed s.cabin.cabins[i] = true
      · exact (urgent home).flagFrom
      · rw [same (Bool.eq_false_iff.2 home)]
        exact .of_same rfl rfl
    refine ⟨{ u.cabin with cabins := u.cabin.cabins.map (Cabin.told s.time.uptime) }, ?_, badHome, fun i c found => ?_⟩
    · rw [State.stationCauses, if_neg none_, if_neg none_]
      show u.notifyCabins = _
      rw [State.notifyCabins_eq] at notices ⊢
      exact congrArg (fun ns : List Notice => { u with
        cabin := { u.cabin with cabins := u.cabin.cabins.map (Cabin.told s.time.uptime) }
        notice := ns.foldl NoticeUnit.push s.notice }) notices
    · obtain ⟨d, at_, urgent, same⟩ := causes i c found
      refine ⟨d.told s.time.uptime, by rw [List.getElem?_map, at_]; rfl, fun home => ?_, fun other => ?_⟩
      · exact urgentNow_of_soon (urgent ((Cabin.homeIn_iff changed c).2 home))
      · have kept : Cabin.homeIn changed c = false := Bool.eq_false_iff.2 fun home => by
          obtain ⟨h, mem, at_home⟩ := (Cabin.homeIn_iff changed c).1 home
          exact other h mem at_home
        rw [same kept, Cabin.told_eq]

/-! ## Station commands (R75 to R78) -/

/-- The STATION_CHANGED notices of changed stations (R78). -/
def State.stationReports (s : State) (changed : List StationIx) (after : Vector (Option StationIx) 12) : List Notice :=
  changed.map fun i => s.stationNotice after i

/-- What a station command leaves when it has ended (R78). -/
def StationCommandEnds (s : State) (base : Addr) (table : StationTable) (seq : Byte) (c : Instr) (code : Byte)
    (args : List Word) (entries : Vector Station 12) : Prop :=
  let after := allEffective entries
  let changed := changedStations table.effective after
  ∃ t, exec c s = .next t ∧
    t.station = { s.station with table := some { entries, effective := after } } ∧
    CommandEnds s t base code seq args .done (BitVec.ofNat 32 changed.length) ∧
    t.cmd.maint = s.cmd.maint ∧
    t.route = { s.route with work := s.arrowScreens.foldl appendWork s.route.work } ∧
    (∀ (i : Nat) (c : Cabin), s.cabin.cabins[i]? = some c →
      ∃ d, t.cabin.cabins[i]? = some d ∧
        ((∃ h ∈ changed, c.home = some h) → UrgentNow s.time.uptime c d) ∧
        ((∀ h ∈ changed, c.home ≠ some h) → d = { c with notified := d.notified })) ∧
    NoticesHanded s.notice t.notice
      (s.stationReports changed after ++ if changed = [] then [] else cabinNotices s t) ∧
    t.loader = s.loader ∧ t.time = s.time ∧ t.cfg = s.cfg ∧ t.lines = s.lines ∧ t.muster = s.muster ∧
    t.screen = s.screen ∧ t.prog = s.prog ∧ t.cabin.badHome = s.cabin.badHome

theorem stationDone_ends {s : State} {base : Addr} {table : StationTable} {seq code : Byte} {c : Instr} {args : List Word}
    {entries : Vector Station 12} (slot : s.slotOpen base) (command : slotCommand c = some (code, seq, args)) (hc : code ≠ 0)
    (starts : (s.slotWritten base code seq args).startCommand code.toNat =
      (s.slotWritten base code seq args).stationDone table entries) :
    StationCommandEnds s base table seq c code args entries := by
  unfold StationCommandEnds
  intro after changed
  let w := s.slotWritten base code seq args
  let v : State := { w with
    station := { s.station with table := some { entries, effective := after } }
    notice := (s.stationReports changed after).foldl NoticeUnit.push s.notice }
  obtain ⟨cabin, causes, badHome, cabins⟩ := v.stationCauses_taken changed
  let ns : List Notice := if changed = [] then [] else cabinNotices s { s with cabin := cabin }
  let u : State := { v with
    cabin := cabin
    notice := ns.foldl NoticeUnit.push v.notice
    route := { s.route with work := s.arrowScreens.foldl appendWork s.route.work } }
  have done : w.stationDone table entries = u.endCommand { outcome := .done, detail := BitVec.ofNat 32 changed.length } := by
    show (State.appendArrows (v.stationCauses changed)).endCommand _ = _
    rw [causes]
    rfl
  obtain ⟨t, runs, ended, maint, eq⟩ := exec_commandEnds slot command hc (starts.trans done) rfl rfl rfl (by
    simp only [u, v, w, State.slotWritten])
  have maint' : t.cmd.maint = s.cmd.maint := maint.trans (s.slotWritten_maint base code seq args)
  have sameCabin : t.cabin = cabin := by rw [eq]
  have notices : cabinNotices s t = cabinNotices s { s with cabin := cabin } := by
    rw [eq]
    rfl
  refine ⟨t, runs, ?_, ended, maint', ?_, ?_, ?_, ?_, ?_, ?_, ?_, ?_, ?_, ?_, ?_⟩
  · rw [eq]
  · rw [eq]
  · rw [sameCabin]
    exact cabins
  · rw [notices, NoticesHanded, List.foldl_append, eq]
  · rw [eq]; rfl
  · rw [eq]; rfl
  · rw [eq]; rfl
  · rw [eq]; rfl
  · rw [eq]; rfl
  · rw [eq]; rfl
  · rw [eq]; rfl
  · rw [sameCabin]
    exact badHome

theorem stationWord_toNat (n : StationIx) : (BitVec.ofNat 32 n.val : Word).toNat = n.val :=
  Nat.mod_eq_of_lt (by omega)

/-- Settles O38. -/
theorem stationCommandsDone : Obligations.StationCommandsDone := by
  intro tag seq n s base table slot found ends old
  have same (c : Instr) (code : Byte) (args : List Word) (entries : Vector Station 12)
      (h : StationCommandEnds s base table seq c code args entries) : ends c code args entries := h
  have station : n.val < 12 := n.isLt
  refine ⟨same _ _ _ _ (stationDone_ends slot rfl (by decide) ?_), same _ _ _ _ (stationDone_ends slot rfl (by decide) ?_),
    fun a => same _ _ _ _ (stationDone_ends slot rfl (by decide) ?_), same _ _ _ _ (stationDone_ends slot rfl (by decide) ?_)⟩
  · show State.cmdStationClose _ _ = _
    simp only [slotWritten_arg_of_one, State.cmdStationClose, State.withStation, State.slotWritten_station, found,
      stationWord_toNat, dif_pos station]
    rfl
  · show State.cmdStationOpen _ _ = _
    simp only [slotWritten_arg_of_one, State.cmdStationOpen, State.withStation, State.slotWritten_station, found,
      stationWord_toNat, dif_pos station]
    rfl
  · show State.cmdSetAlternate _ _ _ = _
    simp only [slotWritten_args_of_two, State.cmdSetAlternate, State.withStation, State.slotWritten_station, found,
      stationWord_toNat, dif_pos station, dif_pos a.isLt]
    rfl
  · show State.cmdSetAlternate _ _ _ = _
    simp only [slotWritten_args_of_two, State.cmdSetAlternate, State.withStation, State.slotWritten_station, found,
      stationWord_toNat, dif_pos station]
    rfl

/-! ## Muster commands that change the state (R61 to R69) -/

/-- A muster command that changes the state and ends DONE (R61, R68, R69). -/
theorem musterCommand_ends {s : State} {base : Addr} {code seq : Byte} {c : Instr} {m : MusterUnit} (slot : s.slotOpen base)
    (command : slotCommand c = some (code, seq, [])) (hc : code ≠ 0)
    (starts : (s.slotWritten base code seq []).startCommand code.toNat =
      ((s.slotWritten base code seq []).changeMuster m .command).endMuster .done) :
    ∃ t, exec c s = .next t ∧ MusterChanged s t m .command ∧ CommandEnds s t base code seq [] .done (musterResult m) := by
  let w := s.slotWritten base code seq []
  let u := w.changeMuster m .command
  obtain ⟨changed, path, port, -, cmd⟩ := changeMuster_changed w m .command
  have cfg : u.cfg = s.cfg := by simp [u, w]
  have word : u.musterWord = musterResult m := by
    obtain ⟨record, -⟩ := changed
    rw [State.musterWord, record]
    rfl
  have ends : w.startCommand code.toNat = u.endCommand { outcome := .done, detail := musterResult m } := by
    rw [← word]
    exact starts
  obtain ⟨t, runs, ended, maint, eq⟩ := exec_commandEnds slot command hc ends path port
    cfg cmd
  refine ⟨t, runs, changed.transfer ?_ ?_, ended⟩
  · simp only [w, State.slotWritten]
  · rw [← maint]
    exact eq

/-- Settles O37. -/
theorem musterCommandsChangeState : Obligations.MusterCommandsChangeState := by
  intro tag seq s base slot
  refine ⟨fun other => ?_, fun normal => ?_, fun drill => ?_, fun muster low => ?_, fun standdown => ?_⟩
  · refine musterCommand_ends slot rfl (by decide) ?_
    show State.cmdMusterOrder _ = _
    obtain h | h | h := other <;> simp [State.cmdMusterOrder, State.orderMuster, h, MusterUnit.enterMuster, originOf]
  · refine musterCommand_ends slot rfl (by decide) ?_
    show State.cmdDrillStart _ = _
    simp [State.cmdDrillStart, normal]
  · refine musterCommand_ends slot rfl (by decide) ?_
    show State.cmdDrillEnd _ = _
    simp [State.cmdDrillEnd, drill]
  · refine musterCommand_ends slot rfl (by decide) ?_
    show State.cmdAllClear _ = _
    simp [State.cmdAllClear, muster, low]
  · refine musterCommand_ends slot rfl (by decide) ?_
    show State.cmdStanddownEnd _ = _
    simp [State.cmdStanddownEnd, standdown]

end Sys2Proof.Machine

/-! SUPPORT. The command slot while it is EXECUTING: overruns, held results, and a command that starts with a full
IWQ (R147 to R149). -/

namespace Sys2Proof.Machine

open Sys2Proof

set_option Elab.async false

section SlotWrite

variable {s : State} {base : Addr} {code seq : Byte} {args : List Word}

/-- A write of the whole slot is accepted, and the command word in the copy is acted on (R2, R147). -/
theorem commandWrite_acted (started : s.started = true) (control : s.cfg.control = some base) (room : s.path.pwq.length < 32) :
    s.commandWrite code seq args = State.actOnWord { s.accepted [(base, slotLine code seq args)] with
      cmd := { s.cmd with copy := sliceBytes (slotLine code seq args).data 0 } } := by
  obtain ⟨class_, line⟩ := classOf_base control
  rw [State.commandWrite, control, Option.getD_some, State.writeArrives_line _ started (by rw [class_]; decide) room,
    State.deliverLine_control (s := s.accepted _) class_]
  change State.deliverControl _ (indexIn s.cfg.controlWindow base) _ = _
  rw [line, State.deliverControl, State.deliverSlot, slotLine_merge, if_pos (slotLine_word code seq args)]
  rfl

/-- A command in an IDLE slot starts, whatever room the IWQ has (R147). -/
theorem commandWrite_idle (started : s.started = true) (control : s.cfg.control = some base) (room : s.path.pwq.length < 32)
    (idle : s.cmd.executing = false) (hc : code ≠ 0) :
    s.commandWrite code seq args = (s.slotWritten base code seq args).startCommand code.toNat := by
  rw [commandWrite_acted started control room, State.actOnWord]
  simp only [slotCopy_code, slotCopy_seq, idle, hc, if_false, Bool.false_eq_true]
  rfl

/-- A command in an EXECUTING slot is an overrun (R147). -/
theorem commandWrite_busy (started : s.started = true) (control : s.cfg.control = some base) (room : s.path.pwq.length < 32)
    (busy : s.cmd.executing = true) (hc : code ≠ 0) :
    s.commandWrite code seq args = { s.accepted [(base, slotLine code seq args)] with
      cmd := { s.cmd with
        copy := sliceBytes (slotLine code seq args).data 0
        overruns := min (s.cmd.overruns + 1) 65535, overrunMark := true } } := by
  rw [commandWrite_acted started control room, State.actOnWord]
  simp only [slotCopy_code, busy, hc, if_false, if_true]
  rfl

end SlotWrite

/-- The slot's fields that a command leaves alone until it ends (R147). -/
theorem State.SlotKept.fields {s u : State} {base : Addr} {code seq : Byte} {args : List Word}
    (h : (s.slotWritten base code seq args).SlotKept u) : u.cmd.executing = true ∧ u.cmd.overrunMark = false ∧
      u.cmd.seqInHand = seq ∧ u.cmd.last = s.cmd.last := by
  obtain ⟨-, cmd⟩ := h
  rw [cmd]
  simp only [State.slotWritten, and_self]

theorem resultFlags_unmarked (r : CmdResult) : resultFlags false r =
    (if r.shiftCancelled = true then 2#8 else 0) ||| (if r.fault = true then 4#8 else 0) := by
  unfold resultFlags
  cases r.shiftCancelled <;> cases r.fault <;> rfl

theorem State.withSlot_argWord (s : State) (p : Path) (k : Nat) : (s.withSlot p s.cmd.copy).argWord k = s.argWord k := rfl

/-- The slot's write with an empty IWQ (R147). -/
theorem slotWritten_drained (s : State) (base : Addr) (code seq : Byte) (args : List Word) :
    State.slotWritten { s with path := { s.path with iwq := [] } } base code seq args =
      (s.slotWritten base code seq args).withSlot { (s.slotWritten base code seq args).path with iwq := [] }
        (s.slotWritten base code seq args).cmd.copy := by
  simp only [State.slotWritten, State.withSlot]

theorem settle_of_commit {s u t : State} (h : commit s u = .next t) : t = settle s u := by
  cases h
  rfl

/-- Two commands that end with the same result, of which one finds room in the IWQ and one finds it full, end alike but
for the result (R149). -/
theorem held_of_placed (u : State) (p : Path) (copy : Vector Byte 28) (r : CmdResult) (executing : u.cmd.executing = true) :
    ({ u.withSlot p copy with cmd := { u.cmd with copy := copy, held := some r } } : State) =
      { (u.withSlot { p with iwq := [] } copy).placeResult r with
        path := p
        cmd := { ((u.withSlot { p with iwq := [] } copy).placeResult r).cmd with
          executing := true, held := some r, last := u.cmd.last } } := by
  simp only [State.placeResult, State.withSlot, ← executing]

/-- Settles O35. -/
theorem executingSlot : Obligations.ExecutingSlot := by
  refine ⟨?_, fun c code seq args s base command hc started control busy room => ?_, fun s base r control held room => ?_⟩
  · intro c code seq args s t0 base command hc started control idle room full run0
    let s0 : State := { s with path := { s.path with iwq := [] } }
    let w := s.slotWritten base code seq args
    let p0 : Path := { w.path with iwq := [] }
    have run := exec_slotCommand command s
    rw [commandWrite_idle started control room idle hc] at run
    rw [exec_slotCommand command, commandWrite_idle (s := s0) started control room idle hc] at run0
    obtain ⟨u, e, kept, ends⟩ := w.startCommand_ends code.toNat
    have ends1 := ends w.path w.cmd.copy fun k _ => w.withSlot_argWord w.path k
    rw [State.withSlot_self] at ends1
    rw [ends1] at run
    rw [slotWritten_drained, ends p0 w.cmd.copy fun k _ => w.withSlot_argWord p0 k] at run0
    obtain ⟨executing, mark, hand, last⟩ := kept.fields
    have cfg : u.cfg.control = some base := by rw [kept.1]; exact control
    generalize w.cmd.copy = copy at run run0
    obtain rfl := settle_of_commit run0
    refine ⟨_, run, ?_⟩
    cases e with
    | result r =>
      let held_ : State := { u.withSlot w.path copy with cmd := { u.cmd with copy := copy, held := some r } }
      have held : (u.withSlot w.path copy).endWith (.result r) = held_ := endCommand_full r full
      have placed : (u.withSlot p0 copy).endWith (.result r) = (u.withSlot p0 copy).placeResult r :=
        endCommand_room r (by decide : ([] : List IwqEntry).length < 16)
      rw [held, placed]
      obtain ⟨eq, writes, -⟩ := settle_follows s held_
      obtain ⟨eq0, writes0, -⟩ := settle_follows s0 ((u.withSlot p0 copy).placeResult r)
      refine ⟨writes, fun _ => ⟨r, ?_, ?_⟩, fun no => ?_⟩
      · obtain ⟨l, none_, last_⟩ := sameWrites_concat (l := []) (e := (u.withSlot p0 copy).resultEntry r) writes0
          (by intro i; simp [State.resultEntry])
        cases none_
        refine last_.trans ?_
        rw [← resultFlags_unmarked, State.resultEntry]
        simp only [State.withSlot, cfg, hand, mark, Option.getD_some, List.nil_append]
      · refine eq.trans ?_
        rw [eq0, ← last]
        exact congrArg (fun z : State => { z with
          path := { z.path with iwq := (settle s held_).path.iwq }
          notice := { z.notice with dirty := (settle s held_).notice.dirty } }) (held_of_placed u w.path copy r executing)
      · rw [eq0] at no
        cases no
    | scan v table =>
      obtain ⟨eq, writes, -⟩ := settle_follows s ((u.withSlot w.path copy).endWith (.scan v table))
      obtain ⟨eq0, -, -⟩ := settle_follows s0 ((u.withSlot p0 copy).endWith (.scan v table))
      refine ⟨writes, fun no => ?_, fun _ => ?_⟩
      · rw [eq0] at no
        exact absurd (executing.symm.trans no) (by decide)
      · refine eq.trans ?_
        rw [eq0]
        rfl
  · refine runsTo_commit ?_
    rw [exec_slotCommand command, commandWrite_busy started control room busy hc]
    rfl
  · refine runsTo_commit ?_
    have free : 0 < s.path.iwqFree := by simp only [Path.iwqFree, Config.iwqSize]; omega
    show commit s s.placeHeld = _
    rw [State.placeHeld, held]
    dsimp only
    rw [if_pos free, State.placeResult, State.resultEntry, control]
    rfl

end Sys2Proof.Machine

/-! SUPPORT. Timers and debounced levels: a dark timer, the standdown and the maintenance timer, long blasts, the
levels that act on their consumers, and the clock (R27, R46 to R49, R51, R56, R61, R66, R68, R89, R109, R113, R143). -/

namespace Sys2Proof.Machine

open Sys2Proof

set_option Elab.async false

/-! ## Coverage (R47 to R49) -/

/-- What follows an evaluation of coverage: the report and its mark, and the line MUSTER_SHOWN (R48, R49). -/
theorem State.coverageEvent_eq (s : State) : s.coverageEvent = { s with
    screen := { s.screen with mark := s.screen.mark && (coverageReport s.screen.mark s).isEmpty }
    muster := { s.muster with shown := s.shownCondition }
    notice := (coverageReport s.screen.mark s).foldl NoticeUnit.push s.notice } := by
  have mark := clearReport_mark s
  rw [State.coverageEvent, coverageNotices_eq]
  have cleared : (s.handAll (coverageReport s.screen.mark s)).clearReport = { s with
      screen := { s.screen with mark := s.screen.mark && (coverageReport s.screen.mark s).isEmpty }
      notice := (coverageReport s.screen.mark s).foldl NoticeUnit.push s.notice } := by
    rw [← mark]
    rfl
  rw [cleared]
  rfl

theorem darkUrgent_eq {st : MusterState} (decided : st ≠ .undecided) : darkUrgent st = decide (st ≠ .normal) := by
  cases st with
  | undecided => exact absurd rfl decided
  | normal | drill | muster | standdown => rfl

/-- A screen's dark timer at its limit (R46). -/
theorem State.darkExpiry_eq {s : State} {i n : Nat} {sc : Screen} (found : s.screen.screens[i]? = some sc)
    (timer : sc.dark = some n) (due : s.cfg.timing.darkMs ≤ n) :
    s.darkExpiry i = State.coverageEvent { s with
      screen := { s.screen with screens := s.screen.screens.set i { sc with watch := .dark, dark := none, covered := false } }
      notice := s.notice.push (s.mkNotice .screenDark (darkUrgent s.muster.state) (screenWord i) 0) } := by
  have twice : (s.screen.screens.modify i fun c => { c with watch := .dark, dark := none }).modify i
      (Screen.evalCovered (variantOf s.muster.state)) =
      s.screen.screens.set i { sc with watch := .dark, dark := none, covered := false } := by
    rw [List.modify_modify_eq, modify_eq_set found]
    rfl
  simp only [State.darkExpiry, found, timer, if_pos due]
  rw [← twice]
  rfl

/-- Settles O52. -/
theorem darkTimerExpires : Obligations.DarkTimerExpires := by
  intro s i sc n found timer due decided
  let dark : Notice := s.mkNotice .screenDark (darkUrgent s.muster.state) (screenWord i) 0
  let v : State := { s with
    screen := { s.screen with screens := s.screen.screens.set i { sc with watch := .dark, dark := none, covered := false } }
    notice := s.notice.push dark }
  have dark_eq : dark = { kind := .screenDark, urgent := decide (s.muster.state ≠ .normal)
                          subject := BitVec.ofNat 32 i.val, detail := 0, epoch := s.muster.epoch, stamp := s.time.uptime } := by
    rw [← darkUrgent_eq decided]
    rfl
  have runs : exec (.darkTimerExpiry i) s = commit s v.coverageEvent := by
    show commit s (s.darkExpiry i) = _
    rw [State.darkExpiry_eq found timer due]
  obtain ⟨t, next, same, -⟩ := runsTo_commit runs
  rw [v.coverageEvent_eq] at same
  refine ⟨t, next, ⟨?_, ?_⟩, ?_, ?_⟩
  · rw [same]
    rfl
  · rw [← dark_eq, same]
    rfl
  · rw [same]
    rfl
  · rw [same]

/-! ## Changes of muster state that no command makes (R58, R61, R66) -/

/-- A change of muster state that ends an event (R68, R69). -/
theorem commit_changeMuster (s v : State) (m : MusterUnit) (o : Origin) :
    ∃ t, commit s (v.changeMuster m o) = .next t ∧ MusterChanged v t m o ∧
      t.path = { v.path with iwq := t.path.iwq } ∧ t.port = v.port ∧
      t.cmd = { v.cmd with maint := t.cmd.maint } := by
  obtain ⟨changed, path, port, -, cmd⟩ := changeMuster_changed v m o
  obtain ⟨same, -⟩ := settle_follows s (v.changeMuster m o)
  refine ⟨_, rfl, changed.transfer rfl ?_, ?_, ?_, ?_⟩
  · rw [same]
  · rw [same, path]
  · rw [same, port]
  · rw [same]
    exact cmd

/-- Settles O51. -/
theorem timersExpire : Obligations.TimersExpire := by
  refine ⟨fun s n standdown timer due => ?_, fun s n timer due => runsTo_commit ?_⟩
  · obtain ⟨t, next, changed, path, port, cmd⟩ :=
      commit_changeMuster s s { s.muster with state := .normal, standdown := none } .timer
    refine ⟨t, ?_, changed, path, port, ?_⟩
    · rw [← next]
      show commit s s.standdownExpiry = _
      simp only [State.standdownExpiry, standdown, timer, if_pos (show s.standdownLimit ≤ n from due)]
    · obtain ⟨-, -, -, -, -, -, -, -, maint, -⟩ := changed
      rw [cmd, maint, standdown]
      rfl
  · show commit s s.maintExpiry = _
    simp only [State.maintExpiry, timer, if_pos (show s.maintLimit ≤ n from due)]
    rfl

/-- An order to muster outside MUSTER enters it (R61). -/
theorem State.orderMuster_enters {s : State} (cause : MusterCause)
    (h : s.muster.state = .normal ∨ s.muster.state = .drill ∨ s.muster.state = .standdown) :
    s.orderMuster cause = s.changeMuster (s.muster.enterMuster cause) (originOf cause) := by
  unfold State.orderMuster
  obtain h | h | h := h <;> rw [h]

/-- An order to muster in MUSTER is a repeat (R61). -/
theorem State.orderMuster_repeats {s : State} (cause : MusterCause) (h : s.muster.state = .muster) :
    s.orderMuster cause = { s with muster := { s.muster with repeats := min (s.muster.repeats + 1) 65535 } } := by
  unfold State.orderMuster
  rw [h]
  rfl

/-- Settles O49. -/
theorem longBlastActs : Obligations.LongBlastActs := by
  intro s d waiting timer long l heard
  have due : s.muster.longDue = true := by
    unfold MusterUnit.longDue
    rw [timer]
    cases bell : s.muster.bell with
    | long => exact absurd bell waiting
    | idle | counting => exact decide_eq_true long
  let v : State := { s with muster := l, notice := s.notice.push heard }
  have alarm (seven : 7 ≤ s.muster.count) : exec .longBlast s = commit s (v.orderMuster .bell) := by
    show commit s s.takeLongBlast = _
    rw [State.takeLongBlast, if_pos due, if_pos (show Config.alarmCount ≤ s.muster.count from seven)]
    rfl
  refine ⟨fun few => ?_, fun seven other => ?_, fun seven muster => ?_⟩
  · show commit s s.takeLongBlast = _
    rw [State.takeLongBlast, if_pos due, if_neg (show ¬ Config.alarmCount ≤ s.muster.count from Nat.not_le.2 few)]
    exact commit_of_same fun _ => rfl
  · obtain ⟨t, next, changed, path, port, cmd⟩ := commit_changeMuster s v (l.enterMuster .bell) .bell
    refine ⟨t, ?_, changed, path, port, cmd⟩
    rw [← next, alarm seven, v.orderMuster_enters .bell other]
    rfl
  · refine runsTo_commit ?_
    rw [alarm seven, v.orderMuster_repeats .bell muster]

/-! ## Debounced levels (R27, R51, R61, R62, R89) -/

/-- A debounced level takes the deglitched one, and goes to its consumer after start-up (R51). -/
theorem debounceExpiry_due {s : State} {line : InputLine} {ms : Nat} (time : debounceMs line = some ms)
    (differs : (s.lines.get line).deg ≠ (s.lines.get line).deb) (due : ms ≤ (s.lines.get line).debCount) :
    exec (.debounceExpiry line) s = commit s
      (if s.started then State.levelChange { s with lines := s.lines.put line (s.lines.get line).debounced } line (s.lines.get line).deg
      else { s with lines := s.lines.put line (s.lines.get line).debounced }) := by
  have due : (s.lines.get line).debDue line = true := by simp [Filter.debDue, time, differs, due]
  show commit s (s.debounce line) = _
  simp only [State.debounce, due, if_true]

/-- After start-up the changed level goes to its consumer (R52). -/
theorem debounceExpiry_acts {s : State} {line : InputLine} {ms : Nat} (level : Bool) (started : s.started = true)
    (time : debounceMs line = some ms) (deg : (s.lines.get line).deg = level) (deb : (s.lines.get line).deb = !level)
    (due : ms ≤ (s.lines.get line).debCount) :
    exec (.debounceExpiry line) s = commit s (State.levelChange
      { s with lines := s.lines.put line { s.lines.get line with deb := level, debCount := 0 } } line level) := by
  obtain rfl := deg
  rw [debounceExpiry_due time (by rw [deb]; cases (s.lines.get line).deg <;> nofun) due, if_pos started, Filter.debounced]

/-- In DEGRADED a FIRE ZONE has no consumer, and before start-up has ended no line has one (R51, R52). -/
theorem debounceExpiry_silent {s : State} {line : InputLine}
    (silent : s.started = false ∨ (s.loader.phase = .degraded ∧ ∃ n, line = .fire n)) (v : State)
    (loader : v.loader = s.loader) : (if s.started then v.levelChange line (s.lines.get line).deg else v) = v := by
  obtain early | ⟨degraded, n, rfl⟩ := silent
  · rw [early]
    rfl
  · have : v.isReady = false := by rw [State.isReady, loader, degraded]; rfl
    simp [State.levelChange, this]

/-- Settles O50. -/
theorem debouncedLevelsAct : Obligations.DebouncedLevelsAct := by
  refine ⟨fun s started => ?_, fun s line silent => ?_, fun s n ready => ?_⟩
  · intro f g risen low
    refine ⟨fun deg deb due => ⟨fun other => ?_, fun muster => ?_⟩, fun deg deb due => ?_, fun deg deb due opened => ?_,
      fun deg deb due closed => ?_, fun deg deb due => ?_⟩
    · obtain ⟨t, next, changed, path, port, cmd⟩ := commit_changeMuster s risen (s.muster.enterMuster .line) .line
      refine ⟨t, ?_, changed, path, port, cmd⟩
      rw [← next, debounceExpiry_acts (line := .muster) true started rfl deg deb due]
      exact congrArg (commit s) (risen.orderMuster_enters .line other)
    · refine runsTo_commit ?_
      rw [debounceExpiry_acts (line := .muster) true started rfl deg deb due]
      exact congrArg (commit s) (risen.orderMuster_repeats .line muster)
    · rw [debounceExpiry_acts (line := .muster) false started rfl deg deb due]
      exact commit_of_same fun _ => rfl
    · refine runsTo_commit ?_
      rw [debounceExpiry_acts (line := .maint) false started rfl deg deb due]
      exact congrArg (commit s) (if_pos opened)
    · rw [debounceExpiry_acts (line := .maint) false started rfl deg deb due]
      have same : low.maintFall = low := if_neg (by rw [show low.cmd = s.cmd from rfl, closed]; nofun)
      show commit s low.maintFall = _
      rw [same]
      exact commit_of_same fun _ => rfl
    · rw [debounceExpiry_acts (line := .maint) true started rfl deg deb due]
      exact commit_of_same fun _ => rfl
  · intro f due differs
    have time : ∃ ms, debounceMs line = some ms ∧ ms ≤ f.debCount := by
      obtain ⟨rfl | rfl, due⟩ | ⟨⟨n, rfl⟩, due⟩ := due
      · exact ⟨200, rfl, due⟩
      · exact ⟨200, rfl, due⟩
      · exact ⟨100, rfl, due⟩
    obtain ⟨ms, time, due⟩ := time
    refine ⟨s.lines.put line f.debounced, ?_, Lines.get_put .., fun other ne => Lines.get_put_of_ne _ _ ne⟩
    have quiet := debounceExpiry_silent silent { s with lines := s.lines.put line f.debounced } rfl
    rw [debounceExpiry_due time differs due, quiet]
    exact commit_of_same fun _ => rfl
  · intro f differs due
    refine runsTo_commit ?_
    have started : s.started = true := by
      rw [State.started, Bool.or_eq_true]
      exact .inl ready
    rw [debounceExpiry_due (line := .fire n) rfl differs due, if_pos started]
    refine congrArg (commit s) ?_
    show (if s.isReady then _ else _) = _
    rw [if_pos ready, State.zoneChange]
    split <;> rfl

/-! ## The clock and the uptime second (R109, R113, R124, R143, R164) -/

/-- Settles O53. -/
theorem clocksAdvance : Obligations.ClocksAdvance := by
  refine ⟨fun s set_ phase => ?_, fun s started phase => ?_⟩
  · intro sec day
    have ticks : (s.prog.clockSet && decide (1000 ≤ s.prog.phase)) = true := by simp [set_, phase]
    have advance : s.prog.advance = { s.prog with sec := sec, day := day, phase := 0 } := by
      simp only [ProgUnit.advance, sec, day]
      split <;> rfl
    let p : ProgUnit := { s.prog with sec := sec, day := day, phase := 0 }
    have unreached (h : ∀ h, s.prog.shift = some h → ¬ (day = h.day ∧ sec = h.minute * 60)) : p.shiftReached = none := by
      unfold ProgUnit.shiftReached
      split
      next r pending => exact if_neg (h r pending)
      next => rfl
    have plain (h : ∀ h, s.prog.shift = some h → ¬ (day = h.day ∧ sec = h.minute * 60)) :
        exec .clockAdvance s = commit s
          (if sec % 60 = 0 then State.computeSelections { s with prog := p } else { s with prog := p }) := by
      show commit s s.clockTick = _
      simp only [State.clockTick, ticks, if_true, advance, unreached h, p]
    refine ⟨fun no_shift within => runsTo_commit ?_, fun no_shift boundary => ?_, fun h pending sameDay sameSec => ?_⟩
    · rw [plain no_shift, if_neg within]
    · have runs := plain no_shift
      rw [if_pos boundary] at runs
      obtain ⟨t, next, same, -⟩ := runsTo_commit runs
      refine ⟨t, next, ?_, ?_, ?_⟩
      · rw [same]
        rfl
      · rw [same]
        exact State.featured_handed (by simp [State.computeSelections_sel]) rfl
      · rw [same]
        rfl
    · have reached : p.shiftReached = some h := by
        rw [ProgUnit.shiftReached, show p.shift = some h from pending]
        exact if_pos ⟨sameDay, sameSec⟩
      let shifted : Notice := { kind := .clockShifted, urgent := false, subject := 0, detail := BitVec.ofInt 32 h.minutes
                                epoch := s.muster.epoch, stamp := s.time.uptime }
      have runs : exec .clockAdvance s =
          commit s (State.computeSelections { s with prog := p.applyShift h, notice := s.notice.push shifted }) := by
        show commit s s.clockTick = _
        simp only [State.clockTick, ticks, if_true, advance]
        rw [show ({ s.prog with sec := sec, day := day, phase := 0 } : ProgUnit).shiftReached = some h from reached]
        rfl
      obtain ⟨t, next, same, -⟩ := runsTo_commit runs
      refine ⟨t, next, ?_, ?_, ?_, ?_⟩
      · rw [same]
        rfl
      · rw [same]
        exact State.featured_handed (by simp [State.computeSelections_sel]) rfl
      · rw [same]
        rfl
      · rw [same]
        rfl
  · let v : State := { s with time := { s.time with uptime := s.time.uptime + 1, uptimePhase := 0 } }
    have runs : exec .uptimeSecond s = commit s v.notifyCabins := by
      show commit s s.uptimeTick = _
      rw [State.uptimeTick, if_pos (by simp [started, phase])]
    have notices : v.dueNotices = cabinNotices s v.notifyCabins :=
      State.dueNotices_eq fun i d _ found _ => ⟨d, found, .of_same rfl rfl⟩
    have flags : (fun c : Cabin => if c.pend ≠ .none ∧ c.eligible.toNat ≤ (s.time.uptime + 1).toNat then
        { c with notified := true } else c) = Cabin.told v.time.uptime := by
      funext c
      rw [Cabin.told_eq]
      split
      next due =>
        rw [show decide (c.pend ≠ .none ∧ c.eligible.toNat ≤ v.time.uptime.toNat) = true from decide_eq_true due, Bool.or_true]
      next late =>
        rw [show decide (c.pend ≠ .none ∧ c.eligible.toNat ≤ v.time.uptime.toNat) = false from decide_eq_false late, Bool.or_false]
    obtain ⟨t, next, same, -⟩ := runsTo_commit runs
    rw [State.notifyCabins_eq] at same
    have told : cabinNotices s t = cabinNotices s v.notifyCabins := by
      rw [same, State.notifyCabins_eq]
      rfl
    refine ⟨t, next, ?_, ?_, ?_, ?_⟩
    · rw [same]
    · rw [flags, same]
    · rw [told, ← notices, same]
      rfl
    · rw [same]

end Sys2Proof.Machine

/-! SUPPORT. Route computations, from their start to their result (R95, R99 to R105), and reset with its release
(R50, R160, R166). -/

namespace Sys2Proof.Machine

open Sys2Proof

set_option Elab.async false

/-! ## The end of a computation (R104, R105) -/

theorem State.presentTarget_eq (s : State) (i : Nat) (sc : Screen) : s.presentTarget i sc =
    match s.muster.state with
    | .normal =>
      match sc.conf.kind, s.prog.sel[i]? with
      | .wayfinding, some (some r) =>
        match r.featured with
        | some n => .at n
        | none => .noTarget
      | _, _ => .noTarget
    | .drill | .muster =>
      match s.station.table.bind fun x => x.effective[sc.conf.home] with
      | some e => .at e.val
      | none => .none
    | .standdown | .undecided => .noTarget := by
  unfold State.presentTarget State.featuredOf State.effective
  cases s.muster.state with
  | normal =>
    cases sc.conf.kind with
    | general | programme => rfl
    | wayfinding => cases s.prog.sel[i]? with
      | none => rfl
      | some r => cases r with
        | none => rfl
        | some v => obtain ⟨_, _, _, featured⟩ := v; cases featured <;> rfl
  | drill | muster => cases s.station.table <;> rfl
  | standdown | undecided => rfl

/-- A result reports itself, unless it repeats the one it replaces (R105). -/
theorem State.endComputation_reported (s : State) (i : Nat) (r : RouteResult) :
    RouteReported s (s.endComputation i r) i (s.route.results.getD i .none) r := by
  unfold RouteReported State.endComputation State.routeNotices
  generalize s.route.results.getD i .none = before
  cases r with
  | none | selected => simp [NoticesHanded, State.handAll]
  | fault n => by_cases same : before = .fault n <;> simp [NoticesHanded, State.handAll, State.mkNotice, same, screenWord, targetDetail]
  | noRoute n =>
    by_cases same : before = .noRoute n
    · simp [NoticesHanded, State.handAll, same]
    · cases n <;> simp [NoticesHanded, State.handAll, State.mkNotice, same, screenWord, targetDetail]

/-- A result is reported whatever the status block's bookkeeping does after it. -/
theorem RouteReported.dirty {s u t : State} {i : Nat} {before after : RouteResult} (h : RouteReported s u i before after)
    (same : t.notice = { u.notice with dirty := t.notice.dirty }) : RouteReported s t i before after := by
  unfold RouteReported at h ⊢
  rw [same]
  exact NoticesHanded.dirty h _

/-- The state of an event that has set the own reads, the fault count, the work list and the count of bad records. -/
def State.fetched (s : State) (own : Vector (Option (List OwnLine)) 2) (memFault : Nat) (work : List Nat) (recFault : Nat) : State :=
  { s with path := { s.path with own, memFault }, route := { s.route with work, recFault } }

/-- What the end of a computation leaves (R104, R105). -/
theorem settle_endComputation (s : State) (own : Vector (Option (List OwnLine)) 2) (memFault : Nat) (work : List Nat)
    (recFault i : Nat) (r : RouteResult) :
    let t := settle s ((s.fetched own memFault work recFault).endComputation i r)
    t.path.own = own ∧ RouteReported s t i (s.route.results.getD i .none) r ∧
    t.route = { s.route with work := work, flight := none, recFault := recFault, results := s.route.results.set i r } ∧
    t = { s with
      route := t.route, notice := t.notice
      path := { s.path with own := own, iwq := t.path.iwq, memFault := memFault } } := by
  intro t
  obtain ⟨same, -⟩ := settle_follows s ((s.fetched own memFault work recFault).endComputation i r)
  have reported := (s.fetched own memFault work recFault).endComputation_reported i r
  refine ⟨?_, RouteReported.dirty reported ?_, ?_, ?_⟩
  · exact congrArg (·.path.own) same
  · exact congrArg (·.notice) same
  · exact congrArg (·.route) same
  · refine same.trans ?_
    rw [show t.route = _ from congrArg (·.route) same, show t.notice = _ from congrArg (·.notice) same]
    rfl

/-! ## The start of a computation (R99) -/

/-- The engine starts an own read of the two lines of its screen and target (R93, R99). -/
theorem State.pursue_fetch {s : State} {i n : Nat} {base : Addr} (table : s.route.tableBase = some base) :
    let a := base + BitVec.ofNat 32 (i * 4096 + n * 128)
    s.pursue i (.at n) = { s with
      route := { s.route with flight := some { screen := i, target := n } }
      path := { s.path with own := s.path.own.set 0 (some
        [{ addr := a, st := startState s.path.pwq a }, { addr := a + 64, st := startState s.path.pwq (a + 64) }]) } } := by
  simp [State.pursue, table, State.startOwnRead, ownLineOf, recordAddr, nthLine, List.range_succ]

/-- Without a table, or without a target, the computation ends at once (R99). -/
theorem State.pursue_ends {s : State} {i : Nat} {target : PresentTarget} {r : RouteResult}
    (h : (target = .noTarget ∧ r = .none) ∨ (target = .none ∧ r = .noRoute none) ∨
      (∃ n, target = .at n ∧ s.route.tableBase = none ∧ r = .fault n)) : s.pursue i target = s.endComputation i r := by
  obtain ⟨rfl, rfl⟩ | ⟨rfl, rfl⟩ | ⟨n, rfl, table, rfl⟩ := h
  · rfl
  · rfl
  · simp only [State.pursue, table]

/-- Settles O54. -/
theorem routeComputationStarts : Obligations.RouteComputationStarts := by
  refine ⟨State.presentTarget_eq, fun s i rest sc idle work present => ?_⟩
  let w : State := { s with route := { s.route with work := rest } }
  have starts : exec .routeComputationStart s = commit s (w.pursue i (s.presentTarget i sc)) := by
    show commit s s.startComputation = _
    simp only [State.startComputation, idle, work, present]
    rfl
  refine ⟨fun n base target table => ?_, fun r h => ?_⟩
  · intro a
    rw [starts, target, State.pursue_fetch (s := w) table]
    exact commit_of_same fun _ => rfl
  · obtain ⟨-, reported, route, same⟩ := settle_endComputation s s.path.own s.path.memFault rest s.route.recFault i r
    refine ⟨_, ?_, route, reported, same⟩
    rw [starts, State.pursue_ends (s := w) h]
    rfl

/-! ## The end of a fetch (R101 to R104) -/

/-- Two lines are handed over with their data where both have arrived (R10). -/
theorem handed_pair (lines : List OwnLine) (d0 d1 : LineData) :
    lines.map OwnLine.handed = [some d0, some d1] ↔ lines.map OwnLine.st = [.arrived d0, .arrived d1] := by
  have one (l : OwnLine) (d : LineData) : l.handed = some d ↔ l.st = .arrived d := by
    unfold OwnLine.handed
    cases l.st <;> simp
  match lines with
  | [] => simp
  | [_] => simp
  | [a, b] => simp [one]
  | _ :: _ :: _ :: _ => simp

/-- The state of an own-read line after its answer (R10). -/
def landedState : ReadAnswer → LineState
  | .data d => .arrived d
  | .error => .failed

/-- The memory fault count after an answer (R10). -/
def faultsAfter (n : Nat) : ReadAnswer → Nat
  | .data _ => n
  | .error => min (n + 1) 65535

/-- An own read hands over when its last line is answered (R10). -/
theorem ownReadLineAnswer_last {s : State} {k : Fin 2} {l : Fin 4} {lines : List OwnLine} {q : OwnLine} {n : Nat} (a : ReadAnswer)
    (own : s.path.own[k] = some lines) (line : lines[l.val]? = some q) (issued : q.st = .issued n)
    (others : ∀ (j : Nat) (x : OwnLine), j ≠ l.val → lines[j]? = some x → x.st.inFlight = false) :
    exec (.ownReadLineAnswer k l a) s = commit s (State.handOver
      (s.fetched (s.path.own.set k none) (faultsAfter s.path.memFault a) s.route.work s.route.recFault) k
      ((lines.set l.val { q with st := landedState a }).map OwnLine.handed)) := by
  have isIssued : q.st.isIssued = true := by rw [issued]; rfl
  have landed (st : LineState) (h : st.inFlight = false) :
      ((lines.set l.val { q with st := st }).any fun r => r.st.inFlight) = false := by
    rw [List.any_eq_false]
    intro r mem
    obtain ⟨j, hj⟩ := List.mem_iff_getElem?.1 mem
    by_cases same : j = l.val
    · subst same
      rw [List.getElem?_set_self (List.getElem?_eq_some_iff.1 line).1] at hj
      obtain rfl := Option.some_inj.1 hj
      simp [h]
    · rw [List.getElem?_set_ne (Ne.symm same)] at hj
      simp [others j r same hj]
  cases a with
  | data d =>
    show commit s (s.ownLineAnswer k l.val (some d)) = _
    simp only [State.ownLineAnswer, own, line, isIssued, if_true, State.setOwn, modify_eq_set line, landed (.arrived d) rfl]
    rfl
  | error =>
    show commit s (s.ownLineAnswer k l.val none) = _
    simp only [State.ownLineAnswer, own, line, isIssued, if_true, State.setOwn, modify_eq_set line, landed .failed rfl]
    rfl

/-- The engine at the end of its fetch (R101 to R104). -/
theorem State.routeHandOver_eq {s : State} {f : Flight} {sc : Screen} (lines : List (Option LineData))
    (flight : s.route.flight = some f) (present : s.screen.screens[f.screen]? = some sc) :
    (s.presentTarget f.screen sc = .at f.target → ∀ d0 d1, lines = [some d0, some d1] →
      s.routeHandOver lines = (s.countInvalid (s.route.invalidCount d0 d1)).endComputation f.screen
        (s.route.evaluate s.muster.state (s.route.results.getD f.screen .none) f.target d0 d1)) ∧
    (s.presentTarget f.screen sc = .at f.target → (∀ d0 d1, lines ≠ [some d0, some d1]) →
      s.routeHandOver lines = s.endComputation f.screen (.fault f.target)) ∧
    (s.presentTarget f.screen sc ≠ .at f.target →
      s.routeHandOver lines = s.pursue f.screen (s.presentTarget f.screen sc)) := by
  simp only [State.routeHandOver, flight, present]
  refine ⟨fun same d0 d1 arrived => ?_, fun same failed => ?_, fun moved => ?_⟩
  · rw [if_pos same, arrived]
  · rw [if_pos same]
    split
    next d0 d1 => exact absurd rfl (failed d0 d1)
    next => rfl
  · rw [if_neg moved]

/-- Settles O55. -/
theorem routeEvaluated : Obligations.RouteEvaluated := by
  intro s l f sc lines q n a flight present own line issued others states target before
  let own' := s.path.own.set 0 none
  let fault := faultsAfter s.path.memFault a
  let landed : List OwnLine := lines.set l.val { q with st := landedState a }
  let v : State := s.fetched own' fault s.route.work s.route.recFault
  have runs : exec (.ownReadLineAnswer 0 l a) s = .next (settle s (v.routeHandOver (landed.map OwnLine.handed))) :=
    ownReadLineAnswer_last (k := 0) a own line issued others
  obtain ⟨evaluated, faulted, pursued⟩ := State.routeHandOver_eq (s := v) (landed.map OwnLine.handed) flight present
  have target_eq : v.presentTarget f.screen sc = target := rfl
  rw [target_eq] at evaluated faulted pursued
  refine ⟨_, runs, ?_⟩
  have ended {recFault : Nat} {r : RouteResult} (e : v.routeHandOver (landed.map OwnLine.handed) =
      (s.fetched own' fault s.route.work recFault).endComputation f.screen r) :
      let t := settle s (v.routeHandOver (landed.map OwnLine.handed))
      (t.path.own = own' ∧ RouteReported s t f.screen before r ∧
        t.route = { s.route with flight := none, recFault := recFault, results := s.route.results.set f.screen r }) ∧
      t = { s with
        route := t.route, notice := t.notice
        path := { s.path with own := t.path.own, iwq := t.path.iwq, memFault := fault } } := by
    rw [e]
    obtain ⟨own_, reported, route, eq⟩ := settle_endComputation s own' fault s.route.work recFault f.screen r
    refine ⟨⟨own_, reported, route⟩, ?_⟩
    rw [own_]
    exact eq
  obtain same | moved := eq_or_ne target (.at f.target)
  · have others (m : Nat) (ne : m ≠ f.target) : target ≠ .at m := fun e =>
      ne (PresentTarget.at.inj (e.symm.trans same))
    have no_target : target ≠ .noTarget := fun e => PresentTarget.noConfusion (e.symm.trans same)
    have none_ : target ≠ .none := fun e => PresentTarget.noConfusion (e.symm.trans same)
    obtain ⟨d0, d1, arrived⟩ | failed := em (∃ d0 d1, landed.map OwnLine.handed = [some d0, some d1])
    · have both : states = [.arrived d0, .arrived d1] := (handed_pair landed d0 d1).1 arrived
      obtain ⟨ends_, frame⟩ := ended (evaluated same d0 d1 arrived)
      refine ⟨⟨fun _ => ⟨fun e0 e1 e => ?_, fun missing => absurd both (missing d0 d1)⟩, fun e => absurd e no_target,
        fun e => absurd e none_, fun m ne e => absurd e (others m ne)⟩, frame⟩
      obtain ⟨rfl, rfl⟩ : d0 = e0 ∧ d1 = e1 := by simpa using both.symm.trans e
      exact ends_
    · obtain ⟨ends_, frame⟩ := ended (faulted same fun d0 d1 e => failed ⟨d0, d1, e⟩)
      exact ⟨⟨fun _ => ⟨fun d0 d1 e => absurd ⟨d0, d1, (handed_pair landed d0 d1).2 e⟩ failed, fun _ => ends_⟩,
        fun e => absurd e no_target, fun e => absurd e none_, fun m ne e => absurd e (others m ne)⟩, frame⟩
  · have pursued := pursued moved
    rcases kind : s.presentTarget f.screen sc with _ | _ | m
    · obtain ⟨ends_, frame⟩ := ended (pursued.trans (State.pursue_ends (s := v) (.inl ⟨kind, rfl⟩)))
      exact ⟨⟨fun e => absurd e moved, fun _ => ends_, fun e => PresentTarget.noConfusion (kind.symm.trans e),
        fun m _ e => PresentTarget.noConfusion (kind.symm.trans e)⟩, frame⟩
    · obtain ⟨ends_, frame⟩ := ended (pursued.trans (State.pursue_ends (s := v) (.inr (.inl ⟨kind, rfl⟩))))
      exact ⟨⟨fun e => absurd e moved, fun e => PresentTarget.noConfusion (kind.symm.trans e), fun _ => ends_,
        fun m _ e => PresentTarget.noConfusion (kind.symm.trans e)⟩, frame⟩
    · have at_ (k : Nat) (e : target = .at k) : m = k := PresentTarget.at.inj (kind.symm.trans e)
      have no_target : target ≠ .noTarget := fun e => PresentTarget.noConfusion (kind.symm.trans e)
      have none_ : target ≠ .none := fun e => PresentTarget.noConfusion (kind.symm.trans e)
      rcases table : s.route.tableBase with _ | base
      · obtain ⟨ends_, frame⟩ := ended (pursued.trans (State.pursue_ends (s := v) (.inr (.inr ⟨m, kind, table, rfl⟩))))
        refine ⟨⟨fun e => absurd e moved, fun e => absurd e no_target, fun e => absurd e none_, fun k _ e => ?_⟩, frame⟩
        obtain rfl := at_ k e
        exact ⟨fun _ => ends_, fun base e => nomatch e⟩
      · have fetch := State.pursue_fetch (s := v) (i := f.screen) (n := m) table
        have reads : v.routeHandOver (landed.map OwnLine.handed) = v.pursue f.screen (.at m) := by
          rw [pursued, show target = .at m from kind]
        rw [reads, fetch]
        obtain ⟨same, -⟩ := settle_follows s (v.pursue f.screen (.at m))
        rw [fetch] at same
        refine ⟨⟨fun e => absurd e moved, fun e => absurd e no_target, fun e => absurd e none_, fun k _ e => ?_⟩, ?_⟩
        · obtain rfl := at_ k e
          refine ⟨(nomatch ·), fun base' e => ?_⟩
          obtain rfl := Option.some_inj.1 e
          rw [same]
          exact ⟨rfl, rfl, Vector.set_set ..⟩
        · rw [same]
          rfl

/-! ## Reset and its release (R50, R160, R166) -/

theorem Lines.get_restart (ls : Lines) (line : InputLine) : ls.restart.get line = { raw := (ls.get line).raw } := by
  cases line with
  | bell | muster | maint => rfl
  | fire n => simp [Lines.restart, Lines.get, Filter.restart]

theorem strapBase_toNat (a b : StrapLevel) :
    (strapBase (strapIndex a b)).toNat = 0x3F000000 + (4 * strapNumber a + strapNumber b) * 0x00100000 := by
  cases a <;> cases b <;> rfl

/-- Before start-up has ended there is no status block (R157). -/
theorem commit_unstarted {s : State} (u : State) (h : s.started = false) : commit s u = .next u := by
  rw [commit, settle, settleWith, h]
  rfl

/-- Settles O58. -/
theorem resetAndRelease : Obligations.ResetAndRelease := by
  refine ⟨fun s => ⟨s.doReset, rfl, rfl, s.lines.get_restart⟩, fun s a b reset => ?_⟩
  have released : exec (.resetRelease a b) s = commit s { s with
      loader := { s.loader with
        phase := .load, sinceRelease := 0, strap1 := a, strap0 := b
        result := { s.loader.result with strapIndex := strapIndex a b } }
      lines := s.lines.restart } := by
    show commit s (s.release a b) = _
    rw [State.release, if_pos reset]
  refine ⟨_, released.trans (commit_unstarted _ (by rw [State.started, reset]; rfl)), rfl, strapBase_toNat a b,
    s.lines.get_restart, rfl⟩

end Sys2Proof.Machine

/-! SUPPORT. The end of start-up (R60, R71, R108, R159, R164, R165). -/

namespace Sys2Proof.Machine

open Sys2Proof

set_option Elab.async false

/-! ## The Notice writer (R153, R159) -/

theorem startDesc_read (r : RingConf) :
    number4 (vecByte (startDesc r)) 0 = r.base.toNat ∧ number2 (vecByte (startDesc r)) 4 = r.count % 65536 ∧
    number2 (vecByte (startDesc r)) 6 = r.watermark % 65536 ∧ number2 (vecByte (startDesc r)) 8 = 0 := by
  have base := r.base.isLt
  simp [number4, number2, vecByte, startDesc, bytes32, bytes16, BitVec.extractLsb'_toNat, Nat.shiftRight_eq_div_pow]
  omega

/-- An URGENT notice at the head of the queue is never given up (R153). -/
theorem foldl_push_head {n : Notice} (urgent : n.urgent = true) (ns : List Notice) {u : NoticeUnit} {rest : List Notice}
    (head : u.queue = n :: rest) : ∃ rest', (ns.foldl NoticeUnit.push u).queue = n :: rest' := by
  induction ns generalizing u rest with
  | nil => exact ⟨rest, head⟩
  | cons m ns ih =>
    have pushed : ∃ rest', (u.push m).queue = n :: rest' := by
      unfold NoticeUnit.push
      split_ifs
      · exact ⟨rest ++ [m], by rw [head]; rfl⟩
      · exact ⟨(rest.eraseP fun k => !k.urgent) ++ [m], by simp [head, urgent]⟩
      · exact ⟨rest, head⟩
    obtain ⟨rest', first⟩ := pushed
    exact ih first

/-! ## The Route engine and the screens (R97, R159) -/

theorem foldl_appendWork_nodup {l w : List Nat} (nodup : l.Nodup) (new : ∀ i ∈ l, i ∉ w) : l.foldl appendWork w = w ++ l := by
  induction l generalizing w with
  | nil => simp
  | cons i l ih =>
    obtain ⟨fresh, nodup⟩ := List.nodup_cons.1 nodup
    have appended : appendWork w i = w ++ [i] := if_neg (new i (List.mem_cons_self ..))
    rw [List.foldl_cons, appended, ih nodup fun j mem => ?_, List.append_assoc, List.singleton_append]
    rw [List.mem_append, List.mem_singleton, not_or]
    exact ⟨new j (List.mem_cons_of_mem _ mem), fun same => fresh (same ▸ mem)⟩

theorem arrowScreens_nodup (s : State) : s.arrowScreens.Nodup := List.nodup_range.filter _

/-- Screens as they stand at the end of start-up: none is covered and none is LIT. -/
def ScreenUnit.Fresh (u : ScreenUnit) : Prop := u.mark = false ∧ ∀ q ∈ u.screens, q.covered = false ∧ q.watch ≠ .lit

theorem ScreenUnit.Fresh.uncover {u : ScreenUnit} (h : u.Fresh) : u.screens.map Screen.uncover = u.screens := by
  obtain ⟨-, fresh⟩ := h
  refine (List.map_congr_left fun q mem => ?_).trans (List.map_id _)
  have open_ : q.covered = false := (fresh q mem).1
  cases q
  subst open_
  rfl

theorem ScreenUnit.Fresh.allCovered {u : ScreenUnit} (h : u.Fresh) : u.allCovered = true := by
  obtain ⟨-, fresh⟩ := h
  refine List.all_eq_true.2 fun q mem => ?_
  rw [decide_eq_true (fresh q mem).2, Bool.true_or]

/-! ## The entry into MUSTER (R60) -/

/-- A change of muster state before any screen is LIT and with the ARROW screens on the list: it leaves all but the
record, the cabins' causes and the notices (R60, R68, R69). -/
theorem changeCore_fresh {u : State} (m : MusterUnit) (o : Origin) (fresh : u.screen.Fresh)
    (listed : ∀ i ∈ u.arrowScreens, i ∈ u.route.work) : changeCore u m o false = { u with
      muster := { m with shown := decide (m.state = .muster) }
      cabin := { u.cabin.urgentCauses u.time.uptime (fun _ => true) with
        cabins := (u.cabin.urgentCauses u.time.uptime fun _ => true).cabins.map fun c =>
          if c.due u.time.uptime then { c with notified := true } else c }
      notice := u.notice.push
        { kind := .musterState, urgent := true, subject := 0, detail := musterDetail m.state o
          epoch := m.epoch, stamp := u.time.uptime }
      free := u.free + 1 } := by
  let v : ScreenUnit := { u.screen with screens := u.screen.screens.map Screen.uncover }
  have screens : v = u.screen := by simp only [v, fresh.uncover]
  have mark : ({ u.screen with mark := false } : ScreenUnit) = u.screen := by rw [← fresh.1]
  have core : changeCore u m o false = { u with
      muster := { m with shown := decide (m.state = .muster) && v.allCovered }
      screen := { v with mark := isAlert m.state && u.isReady && !v.allCovered }
      route := { u.route with work := u.arrowScreens.foldl appendWork u.route.work }
      cabin := { u.cabin.urgentCauses u.time.uptime (fun _ => true) with
        cabins := (u.cabin.urgentCauses u.time.uptime fun _ => true).cabins.map fun c =>
          if c.due u.time.uptime then { c with notified := true } else c }
      notice := u.notice.push
        { kind := .musterState, urgent := true, subject := 0, detail := musterDetail m.state o
          epoch := m.epoch, stamp := u.time.uptime }
      free := u.free + 1 } := rfl
  rw [core, screens, fresh.allCovered, foldl_appendWork_same listed, Bool.not_true, Bool.and_false, Bool.and_true, mark]

/-- An entry into MUSTER at the end of start-up (R60). -/
theorem State.decideMuster_enters {u : State} (asserted : u.lines.muster.deb = true) (closed : u.cmd.maint = none) :
    u.decideMuster = (changeCore u (u.muster.enterMuster .line) .line false).handAll
      (arrange (Config.noticeOrder u.free) []
        (coverageReport u.isReady (changeCore u (u.muster.enterMuster .line) .line false))
        (cabinNotices u (changeCore u (u.muster.enterMuster .line) .line false))) := by
  have closes : (decide (u.muster.state = .normal) && isAlert (u.muster.enterMuster .line).state && u.cmd.maint.isSome) =
      false := by
    rw [closed]
    exact Bool.and_false _
  have changed := changeMuster_eq u (u.muster.enterMuster .line) .line
  rw [closes] at changed
  exact (if_pos asserted).trans changed

/-- What the Muster controller's decision at the end of start-up leaves: all but its own record, the cabins' causes and the
notices stands (R60, R68, R69). -/
theorem State.decideMuster_kept {u : State} (fresh : u.screen.Fresh) (listed : ∀ i ∈ u.arrowScreens, i ∈ u.route.work)
    (closed : u.cmd.maint = none) :
    u.decideMuster = { u with
      muster := u.decideMuster.muster, cabin := u.decideMuster.cabin, free := u.decideMuster.free
      notice := { u.notice with queue := u.decideMuster.notice.queue, lost := u.decideMuster.notice.lost } } := by
  cases level : u.lines.muster.deb with
  | false =>
    have stays : u.decideMuster = u := if_neg (by rw [level]; nofun)
    rw [stays]
  | true =>
    have entered := u.decideMuster_enters level closed
    generalize arrange _ _ _ _ = ns at entered
    rw [changeCore_fresh _ _ fresh listed, State.handAll] at entered
    have notice := congrArg (fun x : State => x.notice) entered
    rw [foldl_push_frame, NoticeUnit.push_frame] at notice
    have notice' : u.decideMuster.notice =
        { u.notice with queue := u.decideMuster.notice.queue, lost := u.decideMuster.notice.lost } := by
      rw [notice]
    rw [← notice']
    rw [entered]

/-! ## What every block takes (R108, R159, R164, R165) -/

theorem State.startReady_fresh (s : State) (c : Contents) : (s.startReady c).screen.Fresh := by
  refine ⟨rfl, fun q mem => ?_⟩
  obtain ⟨p, -, rfl⟩ := List.mem_map.1 mem
  exact ⟨rfl, nofun⟩

theorem State.startReady_work (s : State) (c : Contents) : (s.startReady c).route.work = (s.startReady c).arrowScreens :=
  (foldl_appendWork_nodup (arrowScreens_nodup _) fun _ _ => List.not_mem_nil).trans (List.nil_append _)

/-- The selections at the end of start-up: nothing but the default targets (R71, R108). -/
theorem startSelections (screens : List (ScreenConf × Nat)) : (screens.map startScreen).map ({} : ProgUnit).select =
    screens.map fun q => match q.1.kind with
      | .general => none
      | .programme => some { now := none, next := none, countdown := none, featured := none }
      | .wayfinding => some { now := none, next := none, countdown := none, featured := some q.2 } := by
  rw [List.map_map]
  refine List.map_congr_left fun q _ => ?_
  obtain ⟨conf, target⟩ := q
  show ProgUnit.select _ { conf := conf, defaultTarget := target } = _
  unfold ProgUnit.select ProgUnit.featuredField
  cases kind : conf.kind with
  | general => rfl
  | wayfinding => simp [ProgUnit.nowEntry, ProgUnit.nextEntry, ProgUnit.featuredTarget]
  | programme => simp [ProgUnit.nowEntry, ProgUnit.nextEntry]

/-- Start-up ends once CHECK has finished and its time has passed, and there is no status block before it has
(R157, R163). -/
theorem startUpEnd_runs {s : State} (phase : s.loader.phase = .check) (time : 220 ≤ s.loader.sinceRelease) :
    (∀ c, s.loader.checked = some c → exec .startUpEnd s = .next (s.startReady c).decideMuster) ∧
    (s.loader.checked = none → exec .startUpEnd s = .next s.startDegraded.decideMuster) := by
  have runs : exec .startUpEnd s = .next s.startUpEnds :=
    commit_unstarted s.startUpEnds (by rw [State.started, phase]; rfl)
  have done : s.loader.checkDone = true := by simp [Loader.checkDone, Config.startUpMs, phase, time]
  refine ⟨fun c checked => ?_, fun checked => ?_⟩
  · rw [runs, State.startUpEnds, if_pos done, checked]
  · rw [runs, State.startUpEnds, if_pos done, checked]

/-- A cabin that takes an URGENT cause at the end of start-up is notified at once (R140, R143). -/
theorem urgentNow_fresh {d : Cabin} (h : UrgentNow 0 {} d) : d = { pend := .urgent, eligible := 0, notified := true } := by
  obtain ⟨home, refresh, write, pend, eligible, -⟩ := h
  obtain ⟨eligible, notified⟩ := eligible nofun
  cases d
  subst home refresh write pend eligible notified
  rfl

theorem State.startDegraded_fresh (s : State) : s.startDegraded.screen.Fresh := ⟨rfl, fun _ mem => absurd mem List.not_mem_nil⟩

theorem arrange_nil (o : Fin 6) : arrange o [] [] [] = [] := by
  unfold arrange
  split <;> rfl

/-- With no block but the Muster controller in use, its entry into MUSTER queues MUSTER_STATE alone (R60, R165). -/
theorem State.startDegraded_enters {s : State} (high : s.lines.muster.deb = true) :
    let u := s.startDegraded
    u.decideMuster = { u with
      muster := { u.muster with state := .muster, epoch := 1, cause := .line, shown := true }
      notice := u.notice.push { kind := .musterState, urgent := true, subject := 0, detail := musterDetail .muster .line
                                epoch := 1, stamp := 0 }
      free := u.free + 1 } := by
  intro u
  have entered := State.decideMuster_enters (u := u) high rfl
  have listed : ∀ i ∈ u.arrowScreens, i ∈ u.route.work := fun _ mem => absurd (mem_arrowScreens mem) (Nat.not_lt_zero _)
  rw [changeCore_fresh _ _ s.startDegraded_fresh listed] at entered
  have coverage (t : State) : coverageReport u.isReady t = [] := if_neg fun h => nomatch h.1
  rw [coverage] at entered
  rw [entered]
  exact congrArg (State.handAll _) (arrange_nil _)

/-- Settles O60. -/
theorem startUpEnds : Obligations.StartUpEnds := by
  refine ⟨fun s c phase time checked => ?_, fun s phase time checked => ?_⟩
  · intro bell
    let u := s.startReady c
    have listed : ∀ i ∈ u.arrowScreens, i ∈ u.route.work := fun i mem => s.startReady_work c ▸ mem
    have kept := State.decideMuster_kept (s.startReady_fresh c) listed rfl
    have desc := startDesc_read c.ring
    refine ⟨u.decideMuster, (startUpEnd_runs phase time).1 c checked, ?_⟩
    have arrows : u.decideMuster.arrowScreens = u.arrowScreens := by rw [kept]; rfl
    refine ⟨?_, ?_, ?_, ?_, ?_, ?_, ?_, ?_, ?_, ?_, ?_, ?_, fun low => ?_, fun high => ?_⟩
    · rw [kept]; rfl
    · rw [kept]; rfl
    · rw [kept]; rfl
    · rw [kept]; rfl
    · rw [kept]; rfl
    · rw [kept]; rfl
    · rw [kept]; rfl
    · have route : u.route = { u.route with work := u.arrowScreens, results := List.replicate c.screens.length .none } := by
        rw [← s.startReady_work c, ← List.length_map startScreen]
        rfl
      rw [arrows, kept]
      exact route
    · rw [kept]
      exact congrArg (fun sel => ({ shadow := List.replicate 256 {}, sel := sel } : ProgUnit)) (startSelections c.screens)
    · rw [kept]; rfl
    · rw [kept]; rfl
    · rw [kept]; exact desc
    · have stays : u.decideMuster = u := if_neg (by rw [show u.lines = s.lines from rfl, low]; nofun)
      rw [stays]
      exact ⟨rfl, rfl, rfl⟩
    · have entered := u.decideMuster_enters high rfl
      generalize arrange _ _ _ _ = ns at entered
      rw [changeCore_fresh _ _ (s.startReady_fresh c) listed] at entered
      have change : u.decideMuster = u.changeMuster (u.muster.enterMuster .line) .line := if_pos high
      obtain ⟨⟨-, -, -, -, -, length, cabins, notices, -, frame⟩, -⟩ := changeMuster_changed u (u.muster.enterMuster .line) .line
      rw [← change] at length cabins notices frame
      have muster : u.decideMuster.muster = { state := .muster, epoch := 1, cause := .line, bell := bell, shown := true } := by
        rw [entered]; rfl
      refine ⟨muster, ?_, ?_, ?_, ?_, ?_⟩
      · refine List.eq_replicate_iff.2 ⟨length.trans (List.length_replicate ..), fun d mem => ?_⟩
        obtain ⟨i, found⟩ := List.mem_iff_getElem?.1 mem
        have inside : i < c.cabinCount := by
          rw [← List.length_replicate (n := c.cabinCount) (a := ({} : Cabin))]
          exact length ▸ (List.getElem?_eq_some_iff.1 found).1
        obtain ⟨e, at_, urgent⟩ := cabins i {} (List.getElem?_replicate_of_lt inside)
        obtain rfl := Option.some_inj.1 (found.symm.trans at_)
        exact urgentNow_fresh urgent
      · obtain ⟨-, -, -, -, -, -, -, badHome, -⟩ := frame
        exact badHome
      · rw [entered]
        exact foldl_push_head rfl ns rfl
      · have start : ({ u.decideMuster with
            muster := { state := .normal, bell := bell }, cabin := { cabins := List.replicate c.cabinCount {} }
            notice := { ring := c.ring, desc := u.decideMuster.notice.desc, dirty := Vector.replicate 7 true
                        tailDue := true } } : State) = { u with free := u.decideMuster.free } := by
          rw [kept]
          rfl
        refine (congrArg (fun x => ChangeNotices x u.decideMuster u.decideMuster.muster .line) start).mpr ?_
        rw [muster]
        exact notices
      · rw [kept]; rfl
  · intro bell base
    let u := s.startDegraded
    have desc := startDesc_read (defaultRing s.loader.controlBase)
    refine ⟨u.decideMuster, (startUpEnd_runs phase time).2 checked, ?_⟩
    cases level : s.lines.muster.deb with
    | false =>
      have stays : u.decideMuster = u := if_neg (by rw [show u.lines = s.lines from rfl, level]; nofun)
      rw [stays]
      exact ⟨rfl, rfl, rfl, rfl, rfl, rfl, rfl, rfl, rfl, rfl, rfl, rfl, desc, rfl, fun _ => ⟨rfl, rfl⟩, nofun⟩
    | true =>
      rw [show u.decideMuster = _ from State.startDegraded_enters level]
      exact ⟨rfl, rfl, rfl, rfl, rfl, rfl, rfl, rfl, rfl, rfl, rfl, rfl, desc, rfl, nofun, fun _ => ⟨rfl, rfl⟩⟩

end Sys2Proof.Machine

/-! SUPPORT. The bytes that the part writes: the notice record and the status block (R167 to R169, spec 11). -/

namespace Sys2Proof.Machine

open Sys2Proof

set_option Elab.async false

/-! ## Bytes and numbers (R167) -/

/-- The two bytes of a number, lowest first (R167). -/
theorem bytes16_number (w : BitVec 16) : (w.extractLsb' 0 8).toNat + 256 * (w.extractLsb' 8 8).toNat = w.toNat := by
  have := w.isLt
  simp only [BitVec.extractLsb'_toNat, Nat.shiftRight_eq_div_pow]
  omega

/-- The four bytes of a number, lowest first (R167). -/
theorem bytes32_number (w : Word) :
    (w.extractLsb' 0 8).toNat + 256 * (w.extractLsb' 8 8).toNat +
      65536 * ((w.extractLsb' 16 8).toNat + 256 * (w.extractLsb' 24 8).toNat) = w.toNat := by
  have := w.isLt
  simp only [BitVec.extractLsb'_toNat, Nat.shiftRight_eq_div_pow]
  omega

theorem bytes16_count (n : Nat) :
    ((BitVec.ofNat 16 n).extractLsb' 0 8).toNat + 256 * ((BitVec.ofNat 16 n).extractLsb' 8 8).toNat = n % 65536 :=
  bytes16_number _

theorem flagByte_is (b : Bool) : FlagIs (flagByte b) b := by cases b <;> rfl

theorem byteOf_toNat (n : Nat) : (byteOf n).toNat = n % 256 := BitVec.toNat_ofNat ..

theorem vecByte_lineOf {l : List Byte} {j : Nat} (h : j < 64) : vecByte (lineOf l) j = l.getD j 0 := by
  rw [vecByte_of_lt _ h]
  simp [lineOf]

/-- A line holds 0 where its bytes have ended (R168). -/
theorem vecByte_lineOf_beyond {l : List Byte} {j : Nat} (h : l.length ≤ j) (inside : j < 64) : vecByte (lineOf l) j = 0 := by
  rw [vecByte_lineOf inside]
  exact List.getD_eq_default _ _ h

theorem vecByte_lineOf_eq {l : List Byte} (fits : l.length ≤ 64) : vecByte (lineOf l) = listByte l := by
  funext j
  by_cases h : j < 64
  · exact vecByte_lineOf h
  · rw [listByte, List.getD_eq_default _ _ (by omega)]
    simp [vecByte, h]

/-- The bytes of entries of one length that follow one another. -/
theorem getD_flatMap {α : Type} {f : α → List Byte} {m : Nat} (same : ∀ a, (f a).length = m) {l : List α} {i : Nat} {a : α}
    (h : l[i]? = some a) {k : Nat} (inside : k < m) : (l.flatMap f).getD (m * i + k) 0 = (f a).getD k 0 := by
  induction l generalizing i with
  | nil => simp at h
  | cons b l ih =>
    rw [List.flatMap_cons]
    cases i with
    | zero =>
      obtain rfl := Option.some_inj.1 h
      simp [List.getD_eq_getElem?_getD, List.getElem?_append_left, same, inside]
    | succ i =>
      rw [← ih h, List.getD_eq_getElem?_getD, List.getElem?_append_right (by rw [same]; nlinarith), same,
        List.getD_eq_getElem?_getD, show m * (i + 1) + k - m = m * i + k by rw [Nat.mul_succ]; omega]

theorem getD_replicate {n j : Nat} {x : Byte} (h : j < n) : (List.replicate n x).getD j 0 = x := by
  rw [List.getD_eq_getElem?_getD, List.getElem?_replicate_of_lt h]
  rfl

theorem length_flatMap_of {α : Type} {f : α → List Byte} {m : Nat} (same : ∀ a, (f a).length = m) (l : List α) :
    (l.flatMap f).length = m * l.length := by
  induction l with
  | nil => rfl
  | cons a l ih => rw [List.flatMap_cons, List.length_append, same, ih, List.length_cons, Nat.mul_succ, Nat.add_comm]

/-! ## The notice record (R168) -/

theorem kindCode_toNat (k : NoticeKind) : (kindCode k).toNat = (match k with
    | .memoryFault => 1
    | .protectViolation => 2
    | .maintWindow => 3
    | .sourceFault => 4
    | .screenLit => 5
    | .screenDark => 6
    | .coverageComplete => 7
    | .alarmHeard => 8
    | .musterState => 9
    | .stationChanged => 10
    | .routeNone => 11
    | .routeFault => 12
    | .clockShifted => 13
    | .entryRejected => 14
    | .cabinRefresh => 15) := by cases k <;> rfl

theorem recordBytes_read (n : Notice) : RecordBytes n (listByte (recordBytes n)) :=
  ⟨kindCode_toNat n.kind, flagByte_is n.urgent, bytes16_number n.epoch, bytes32_number n.stamp, bytes32_number n.subject,
    bytes32_number n.detail⟩

/-! ## The status block (R169) -/

theorem startFlags_toNat (r : StartResult) : r.flags.toNat = (if r.clamped = true then 1 else 0) +
    (if r.overlap = true then 2 else 0) + (if r.skipped = true then 4 else 0) := by
  unfold StartResult.flags
  cases r.clamped <;> cases r.overlap <;> cases r.skipped <;> rfl

theorem eq_of_length_six {l : List Byte} (h : l.length = 6) :
    l = [l.getD 0 0, l.getD 1 0, l.getD 2 0, l.getD 3 0, l.getD 4 0, l.getD 5 0] := by
  match l, h with
  | [_, _, _, _, _, _], _ => rfl

theorem musterCode_toNat (st : MusterState) : (byteOf (musterCode st)).toNat = (match st with
    | .undecided | .normal => 0
    | .drill => 1
    | .muster => 2
    | .standdown => 3) := by cases st <;> rfl

theorem causeCode_toNat (c : MusterCause) : (byteOf (causeCode c)).toNat = (match c with
    | .none => 0
    | .bell => 1
    | .line => 2
    | .command => 3) := by cases c <;> rfl

theorem reasonCode_toNat (r : StartReason) : (byteOf (reasonCode r)).toNat = (match r with
    | .none => 0
    | .signature => 1
    | .sum => 2
    | .format => 3) := by cases r <;> rfl

theorem presence_toNat (table : Option StationTable) (phase : Phase) :
    (((if table.isSome then 1 else 0) ||| (if decide (phase = .ready) then 2 else 0) : Byte)).toNat =
      (if table ≠ none then 1 else 0) + (if phase = .ready then 2 else 0) := by
  cases phase with
  | ready => cases table <;> simp
  | _ => cases table <;> simp

theorem shiftBytes_length (h : Option Shift) : (shiftBytes h).length = 6 := by cases h <;> rfl

theorem State.statusHead_length (s : State) : s.statusHead.length = 30 := by
  simp [State.statusHead, shiftBytes_length, bytes16]

theorem shiftMinutes_number (m : Int) :
    ((((BitVec.ofInt 16 m).extractLsb' 0 8).toNat + 256 * ((BitVec.ofInt 16 m).extractLsb' 8 8).toNat : Nat) : Int) = m % 65536 := by
  rw [bytes16_number, BitVec.toNat_ofInt]
  exact Int.toNat_of_nonneg (Int.emod_nonneg _ (by decide))

/-- The bytes of the pending shift (R169). -/
theorem shiftBytes_read {x : Option Shift} {b : Nat → Byte} (h : ∀ k < 6, b k = (shiftBytes x).getD k 0) :
    FlagIs (b 0) x.isSome ∧
    (∀ h, x = some h → (b 1).toNat = h.day % 256 ∧ (b 2).toNat + 256 * (b 3).toNat = h.minute % 65536 ∧
      (((b 4).toNat + 256 * (b 5).toNat : Nat) : Int) = h.minutes % 65536) ∧
    (x = none → (b 1).toNat = 0 ∧ (b 2).toNat + 256 * (b 3).toNat = 0 ∧ (b 4).toNat + 256 * (b 5).toNat = 0) := by
  rw [h 0 (by decide), h 1 (by decide), h 2 (by decide), h 3 (by decide), h 4 (by decide), h 5 (by decide)]
  cases x with
  | none => exact ⟨rfl, nofun, fun _ => ⟨rfl, rfl, rfl⟩⟩
  | some h =>
    refine ⟨rfl, fun g same => ?_, nofun⟩
    obtain rfl := Option.some_inj.1 same
    exact ⟨byteOf_toNat _, bytes16_count _, shiftMinutes_number _⟩

/-- The pending shift stands from byte 12 of the head line (R169). -/
theorem State.statusHead_shift (s : State) {k : Nat} (h : k < 6) :
    listByte s.statusHead (12 + k) = (shiftBytes s.prog.shift).getD k 0 := by
  let front : List Byte := [byteOf (musterCode s.muster.state), byteOf (causeCode s.muster.cause),
      flagByte s.cmd.maint.isSome, flagByte s.muster.standdown.isSome] ++
    bytes16 s.muster.epoch ++ bytes16 (BitVec.ofNat 16 s.muster.repeats) ++
    [flagByte s.prog.clockSet, byteOf s.prog.day] ++ bytes16 (BitVec.ofNat 16 (s.prog.sec / 60))
  obtain ⟨back, parts⟩ : ∃ back, s.statusHead = front ++ (shiftBytes s.prog.shift ++ back) := by
    simp only [State.statusHead, front, List.append_assoc]
    exact ⟨_, rfl⟩
  have length := shiftBytes_length s.prog.shift
  rw [listByte, parts, List.getD_append_right _ _ _ _ (Nat.le_add_right 12 k), show 12 + k - front.length = k by
    rw [show front.length = 12 from rfl]; omega, List.getD_append _ _ _ _ (by omega)]

theorem statusHead_read (s : State) : HeadLineBytes s (listByte s.statusHead) := by
  have beyond (j : Nat) (h : 30 ≤ j) : listByte s.statusHead j = 0 := List.getD_eq_default _ _ (s.statusHead_length ▸ h)
  obtain ⟨flag, pending, absent⟩ := shiftBytes_read (b := fun k => listByte s.statusHead (12 + k)) fun _ h => s.statusHead_shift h
  have bytes : shiftBytes s.prog.shift = _ := eq_of_length_six (shiftBytes_length s.prog.shift)
  unfold HeadLineBytes
  refine ⟨?_, ?_, ?_, ?_, ?_, ?_, ?_, ?_, ?_, ?_, ?_, ?_, ?_, ?_, ?_, ?_, ?_, ?_, ?_, ?_, ?_, ?_, fun j h _ => beyond j h⟩
  · exact musterCode_toNat _
  · exact causeCode_toNat _
  · exact flagByte_is _
  · exact flagByte_is _
  · exact bytes16_number _
  · exact bytes16_count _
  · exact flagByte_is _
  · exact byteOf_toNat _
  · exact bytes16_count _
  · exact flag
  · exact pending
  · exact absent
  all_goals
    unfold State.statusHead
    rw [bytes]
  · exact bytes16_count _
  · exact bytes16_count _
  · rfl
  · rfl
  · rfl
  · exact flagByte_is _
  · exact reasonCode_toNat _
  · exact startFlags_toNat _
  · exact byteOf_toNat _
  · exact presence_toNat _ _

theorem statusLine_head (s : State) : StatusLineBytes s 0 (vecByte (s.statusLine 0)) := by
  show HeadLineBytes s (vecByte (lineOf s.statusHead))
  rw [vecByte_lineOf_eq (by rw [s.statusHead_length]; decide)]
  exact statusHead_read s

theorem stationByte_toNat (x : Option StationIx) : (stationByte x).toNat = (x.map Fin.val).getD 255 := by
  cases x with
  | none => rfl
  | some i =>
    show (byteOf i.val).toNat = i.val
    rw [byteOf_toNat]
    omega

theorem statusLine_stations (s : State) : StatusLineBytes s 1 (vecByte (s.statusLine 1)) := by
  show StationLineBytes s (vecByte (lineOf s.statusStations))
  have length : s.statusStations.length = 36 := by
    unfold State.statusStations
    cases s.station.table with
    | none => rfl
    | some t => exact length_flatMap_of (m := 3) (fun _ => rfl) _
  refine ⟨fun absent j inside => ?_, fun t present i => ?_, fun j h inside => vecByte_lineOf_beyond (length ▸ h) inside⟩
  · rw [vecByte_lineOf (by omega), State.statusStations, absent]
    rw [getD_replicate inside]
    rfl
  · have chunk (k : Nat) (h : k < 3) : vecByte (lineOf s.statusStations) (3 * i.val + k) =
        ([flagByte t.entries[i].closed, stationByte t.entries[i].alternate, stationByte t.effective[i]]).getD k 0 := by
      have at_ : (List.finRange 12)[i.val]? = some i := by simp
      rw [vecByte_lineOf (by omega), State.statusStations, present]
      exact getD_flatMap (f := fun i : Fin 12 =>
        [flagByte t.entries[i].closed, stationByte t.entries[i].alternate, stationByte t.effective[i]]) (fun _ => rfl) at_ h
    refine ⟨?_, ?_, ?_⟩
    · rw [show 3 * i.val = 3 * i.val + 0 from rfl, chunk 0 (by decide)]
      exact flagByte_is _
    · rw [chunk 1 (by decide)]
      exact stationByte_toNat _
    · rw [chunk 2 (by decide)]
      exact stationByte_toNat _

theorem statusLine_counters (s : State) : StatusLineBytes s 2 (vecByte (s.statusLine 2)) := by
  show CounterLineBytes s (vecByte (lineOf s.statusCounters))
  let counts := [s.path.memFault, s.cmd.violations, s.cmd.overruns, s.notice.lost, s.notice.badHead, s.route.badSeg,
    s.route.recFault, s.prog.rejected, s.cabin.badHome]
  have length : s.statusCounters.length = 18 := length_flatMap_of (m := 2) (fun _ => rfl) counts
  have counter (i : Fin 9) (c : Nat) (h : counts[i.val]? = some c) :
      number2 (vecByte (lineOf s.statusCounters)) (2 * i.val) = c % 65536 := by
    have byte (k : Nat) (inside : k < 2) : vecByte (lineOf s.statusCounters) (2 * i.val + k) =
        (bytes16 (BitVec.ofNat 16 c)).getD k 0 :=
      (vecByte_lineOf (by omega)).trans (getD_flatMap (f := fun c => bytes16 (BitVec.ofNat 16 c)) (m := 2) (fun _ => rfl) h inside)
    rw [number2, byte 1 (by decide), show 2 * i.val = 2 * i.val + 0 from rfl, byte 0 (by decide)]
    exact bytes16_count c
  exact ⟨counter 0 _ rfl, counter 1 _ rfl, counter 2 _ rfl, counter 3 _ rfl, counter 4 _ rfl, counter 5 _ rfl,
    counter 6 _ rfl, counter 7 _ rfl, counter 8 _ rfl, fun j h inside => vecByte_lineOf_beyond (length ▸ h) inside⟩

/-! The screens. -/

theorem routeBytes_length (r : RouteResult) : (routeBytes r).length = 6 := by
  cases r with
  | none | selected | fault => rfl
  | noRoute target => cases target <;> rfl

theorem State.screenEntry_length (s : State) (i : Nat) : (s.screenEntry i).length = 10 := by
  unfold State.screenEntry
  cases s.screen.screens[i]? with
  | none => rfl
  | some sc => simp [routeBytes_length, bytes16]

theorem watchCode_toNat (w : Watch) : (watchCode w).toNat = (match w with
    | .unknown => 0
    | .lit => 1
    | .dark => 2) := by cases w <;> rfl

/-- The ten bytes of an entry (R169). -/
theorem State.screenEntry_read {s : State} {i : Nat} {b : Nat → Byte} (h : ∀ j < 10, b j = (s.screenEntry i).getD j 0) :
    ScreenEntryBytes s i b := by
  refine ⟨fun absent j inside => ?_, fun sc present => ?_⟩
  · rw [h j inside, State.screenEntry, absent, getD_replicate inside]
    rfl
  · have entry : s.screenEntry i = [watchCode sc.watch, flagByte sc.covered] ++
        (routeBytes (s.route.results.getD i .none) ++ bytes16 (BitVec.ofNat 16 sc.srcFault)) := by
      rw [State.screenEntry, present]
      rfl
    rw [entry] at h
    generalize s.route.results.getD i .none = r at h
    have six := eq_of_length_six (routeBytes_length r)
    rw [six] at h
    refine ⟨?_, ?_, ?_, ?_⟩
    · rw [h 0 (by decide)]
      exact watchCode_toNat _
    · rw [h 1 (by decide)]
      exact flagByte_is _
    · simp only [number2]
      rw [h 2 (by decide), h 3 (by decide), h 4 (by decide), h 5 (by decide), h 6 (by decide), h (6 + 1) (by decide)]
      cases r with
      | none => exact ⟨rfl, rfl, rfl, rfl, rfl⟩
      | selected target candidate cost glyph =>
        exact ⟨rfl, byteOf_toNat _, byteOf_toNat _, byteOf_toNat _, bytes16_count _⟩
      | noRoute target =>
        cases target with
        | none => exact ⟨rfl, rfl, rfl, rfl, rfl⟩
        | some t => exact ⟨rfl, byteOf_toNat _, rfl, rfl, rfl⟩
      | fault t => exact ⟨rfl, byteOf_toNat _, rfl, rfl, rfl⟩
    · rw [number2, h 8 (by decide), h (8 + 1) (by decide)]
      exact bytes16_count _

theorem statusLine_screens (s : State) (i : Fin 7) (k : Nat) (hk : i.val = k + 3) :
    StatusLineBytes s i (vecByte (s.statusLine i)) := by
  let entries := (List.range 6).flatMap fun j => s.screenEntry (6 * k + j)
  have line : s.statusLine i = lineOf entries := by
    unfold State.statusLine
    rw [hk]
  unfold StatusLineBytes
  rw [line, hk]
  have length : entries.length = 60 := length_flatMap_of (m := 10) (fun j => s.screenEntry_length _) _
  refine ⟨fun j inside => State.screenEntry_read fun o low => ?_, fun j h inside => vecByte_lineOf_beyond (length ▸ h) inside⟩
  rw [vecByte_lineOf (by omega)]
  exact getD_flatMap (fun j => s.screenEntry_length _) (List.getElem?_range inside) low

/-- The bytes of each line of the status block (R169). -/
theorem statusLine_bytes (s : State) (i : Fin 7) : StatusLineBytes s i (vecByte (s.statusLine i)) := by
  match i with
  | 0 => exact statusLine_head s
  | 1 => exact statusLine_stations s
  | 2 => exact statusLine_counters s
  | ⟨k + 3, h⟩ => exact statusLine_screens s ⟨k + 3, h⟩ k rfl

end Sys2Proof.Machine

/-! SUPPORT. The turns of the Notice writer (R154, R157, R158). -/

namespace Sys2Proof.Machine

open Sys2Proof

set_option Elab.async false

/-! ## The next turn (R158) -/

/-- The turns by their number. -/
def turnNumber : Turn → Nat
  | .notices => 0
  | .status => 1
  | .ringTail => 2

/-- How far a turn stands after the one that follows the turn done last (R158). -/
def turnsFrom (last x : Turn) : Nat := (turnNumber x + 2 - turnNumber last) % 3

/-- The turns are considered in the order of their distance (R158). -/
theorem find?_turnsAfter {ready : Turn → Bool} {last x : Turn} (works : ready x = true)
    (first : ∀ y, ready y = true → turnsFrom last x ≤ turnsFrom last y) : (turnsAfter last).find? ready = some x := by
  have before (y : Turn) (h : turnsFrom last y < turnsFrom last x) : ready y = false :=
    Bool.eq_false_iff.2 fun works => absurd (first y works) (Nat.not_le.2 h)
  cases last <;> cases x <;> simp (disch := decide) [turnsAfter, works, before]

theorem State.turnReady_iff (s : State) (x : Turn) : s.turnReady x = true ↔
    match x with
    | .notices => s.notice.queue ≠ [] ∧
        (s.notice.tail + s.notice.ring.count - s.notice.head) % s.notice.ring.count < s.notice.ring.count - 1 ∧
        s.path.iwq.length + 2 ≤ 16
    | .status => ∃ i : Fin 7, s.notice.dirty[i] = true
    | .ringTail => s.notice.tailDue = true := by
  cases x with
  | notices =>
    have room : 2 ≤ s.path.iwqFree ↔ s.path.iwq.length + 2 ≤ 16 := by
      simp only [Path.iwqFree, Config.iwqSize]
      omega
    simp only [State.turnReady, State.noticeTurnReady, Bool.and_eq_true, decide_eq_true_eq, room, and_assoc]
    rfl
  | status => simp [State.turnReady, NoticeUnit.dirtyLines]
  | ringTail => rfl

/-- With a free entry and no turn to finish, the first turn that has something to do is taken (R158). -/
theorem State.writerTurn_takes {s : State} {x : Turn} (started : s.started = true) (room : s.path.iwq.length < 16)
    (finished : s.notice.turnLines = []) (works : s.turnReady x = true)
    (first : ∀ y, s.turnReady y = true → turnsFrom s.notice.lastTurn x ≤ turnsFrom s.notice.lastTurn y) :
    s.writerTurn = s.takeTurn x := by
  have room : s.path.iwqFree ≠ 0 := by
    simp only [Path.iwqFree, Config.iwqSize]
    omega
  rw [State.writerTurn, if_neg (by simp [started, room]), if_neg (not_not.2 finished), find?_turnsAfter works first]

/-! ## The status turn (R157, R158) -/

/-- Status lines are placed with their present bytes, and their marks are cleared (R158). -/
theorem foldl_placeStatus (l : List (Fin 7)) (s : State) : l.foldl State.placeStatus s = { s with
    path := { s.path with iwq := s.path.iwq ++ l.map s.statusEntry }
    notice := { s.notice with dirty := Vector.ofFn fun i => s.notice.dirty[i] && decide (i ∉ l) } } := by
  induction l generalizing s with
  | nil =>
    have same : (Vector.ofFn fun i : Fin 7 => s.notice.dirty[i] && decide (i ∉ [])) = s.notice.dirty := by
      ext i h
      simp
    rw [same, List.map_nil, List.append_nil]
    rfl
  | cons i l ih =>
    rw [List.foldl_cons, ih]
    have entries : l.map (s.placeStatus i).statusEntry = l.map s.statusEntry := rfl
    have dirty : (Vector.ofFn fun j : Fin 7 => (s.placeStatus i).notice.dirty[j] && decide (j ∉ l)) =
        Vector.ofFn fun j : Fin 7 => s.notice.dirty[j] && decide (j ∉ i :: l) := by
      ext j h
      by_cases same : i.val = j
      · simp [State.placeStatus, State.placeIwq, same, Fin.ext_iff]
      · simp [State.placeStatus, State.placeIwq, same, Fin.ext_iff, Ne.symm same]
    have iwq : (s.placeStatus i).path.iwq ++ l.map s.statusEntry = s.path.iwq ++ (i :: l).map s.statusEntry :=
      List.append_assoc ..
    rw [entries, dirty, iwq]
    rfl

/-- The status turn over the lines that it has still to place (R158). -/
theorem State.statusTurn_eq (s : State) (lines : List (Fin 7)) : s.statusTurn lines = { s with
    path := { s.path with iwq := s.path.iwq ++ (lines.take s.path.iwqFree).map s.statusEntry }
    notice := { s.notice with
      dirty := Vector.ofFn fun i => s.notice.dirty[i] && decide (i ∉ lines.take s.path.iwqFree)
      turnLines := lines.drop s.path.iwqFree, lastTurn := .status } } := by
  rw [State.statusTurn, foldl_placeStatus]

theorem State.statusEntry_eq {s : State} {base : Addr} (control : s.cfg.control = some base) : s.statusEntry = fun i : Fin 7 =>
    { kind := .status i, addr := base + BitVec.ofNat 32 (64 * (4 + i.val)), data := s.statusLine i
      en := Vector.replicate 64 true } := by
  funext i
  rw [State.statusEntry, control]
  rfl

/-- The status turn changes nothing that the status block shows (R158). -/
theorem statusTurn_commits {s : State} {base : Addr} (control : s.cfg.control = some base) (lines : List (Fin 7)) :
    let placed := lines.take (16 - s.path.iwq.length)
    commit s (s.statusTurn lines) = .next { s with
      path := { s.path with iwq := s.path.iwq ++ placed.map fun i =>
        { kind := .status i, addr := base + BitVec.ofNat 32 (64 * (4 + i.val)), data := s.statusLine i
          en := Vector.replicate 64 true } }
      notice := { s.notice with
        dirty := Vector.ofFn fun i => s.notice.dirty[i] && decide (i ∉ placed)
        turnLines := lines.drop (16 - s.path.iwq.length), lastTurn := .status } } := by
  intro placed
  rw [← State.statusEntry_eq control, commit_of_same (u := s.statusTurn lines) fun i => ?_]
  · rw [State.statusTurn_eq]
    rfl
  · rw [State.statusTurn_eq]
    rfl

/-! ## The tail word's turn (R152, R159) -/

theorem State.tailEntry_eq {s : State} {base : Addr} (control : s.cfg.control = some base) (tail : Nat) :
    s.tailEntry tail =
      { kind := .tail, addr := base + 128, data := lineOf (bytes16 (BitVec.ofNat 16 tail)), en := enablesAt 0 4 } := by
  rw [State.tailEntry, control]
  rfl

theorem tailTurn_commits {s : State} {base : Addr} (control : s.cfg.control = some base) :
    commit s s.tailTurn = .next { s with
      path := { s.path with iwq := s.path.iwq ++
        [{ kind := .tail, addr := base + 128, data := lineOf [0, 0], en := enablesAt 0 4 }] }
      notice := { s.notice with tailDue := false, lastTurn := .ringTail } } := by
  rw [commit_of_same (s := s) (u := s.tailTurn) fun _ => rfl]
  show Host.Outcome.next { s with
    path := { s.path with iwq := s.path.iwq ++ [s.tailEntry 0] }
    notice := { s.notice with tailDue := false, lastTurn := .ringTail } } = _
  rw [State.tailEntry_eq control]
  rfl

/-! ## The notices' turn (R154) -/

/-- The notices' turn: the record and the tail word are the last writes of the IWQ (R154). -/
theorem noticeTurn_commits {s : State} {base : Addr} {n : Notice} {rest : List Notice} (control : s.cfg.control = some base)
    (queue : s.notice.queue = n :: rest) :
    let u := s.notice
    let tail := if u.tail + 1 < u.ring.count then u.tail + 1 else 0
    let slot := u.ring.base + BitVec.ofNat 32 (u.tail * 16)
    ∃ t, commit s s.noticeTurn = .next t ∧
      t.notice = { u with
        queue := rest, tail := tail, lastTurn := .notices
        urgent := if n.urgent = true then some u.tail else u.urgent
        irq := t.notice.irqCondition, dirty := t.notice.dirty } ∧
      (∃ l, List.Forall₂ SameWrite s.path.iwq l ∧ t.path.iwq = l ++
        [{ kind := .notice, addr := alignLine slot, data := lineAt (slot.toNat % 64) (recordBytes n)
           en := enablesAt (slot.toNat % 64) 16 },
         { kind := .tail, addr := base + 128, data := lineOf (bytes16 (BitVec.ofNat 16 tail))
           en := enablesAt 0 4 }]) ∧
      t = { s with notice := t.notice, path := { s.path with iwq := t.path.iwq } } := by
  intro u tail slot
  let record : IwqEntry := { kind := .notice, addr := alignLine slot, data := lineAt (slot.toNat % 64) (recordBytes n)
                             en := enablesAt (slot.toNat % 64) 16 }
  let word : IwqEntry := { kind := .tail, addr := base + 128, data := lineOf (bytes16 (BitVec.ofNat 16 tail))
                           en := enablesAt 0 4 }
  let v : NoticeUnit := { u with
    queue := rest, tail := tail, urgent := if n.urgent = true then some u.tail else u.urgent, lastTurn := .notices }
  have turn : s.noticeTurn = { s with
      notice := v.evalIrq, path := { s.path with iwq := (s.path.iwq ++ [record]) ++ [word] } } := by
    simp only [State.noticeTurn, queue, State.placeIwq, State.tailEntry, control]
    rfl
  obtain ⟨same, writes, -⟩ := settle_follows s s.noticeTurn
  rw [turn] at same writes
  obtain ⟨m, writes, last⟩ := sameWrites_concat writes fun i => nofun
  obtain ⟨l, writes, before⟩ := sameWrites_concat writes fun i => nofun
  refine ⟨_, rfl, ?_, ⟨l, writes, ?_⟩, ?_⟩
  · rw [turn, same]
    rfl
  · rw [turn, last, before, List.append_assoc]
    rfl
  · rw [turn, same]

/-- Settles O28. -/
theorem writerTurns : Obligations.WriterTurns := by
  refine ⟨fun s base started control => ?_, fun n => ⟨rfl, recordBytes_read n⟩, statusLine_bytes⟩
  intro u works number after next
  have works_iff (x : Turn) : s.turnReady x = true ↔ works x := by
    refine (s.turnReady_iff x).trans ?_
    cases x <;> exact Iff.rfl
  have takes (x : Turn) (room : s.path.iwq.length < 16) (h : next x) : exec .noticeWriterTurn s = commit s (s.takeTurn x) := by
    obtain ⟨finished, worked, first⟩ := h
    have distance (y : Turn) : after y = turnsFrom u.lastTurn y := by
      simp only [after, number, turnsFrom]
      cases y <;> cases u.lastTurn <;> rfl
    show commit s s.writerTurn = _
    rw [State.writerTurn_takes started room finished ((works_iff x).2 worked) fun y h => ?_]
    rw [← distance, ← distance]
    exact first y ((works_iff y).1 h)
  have free : s.path.iwqFree = 16 - s.path.iwq.length := rfl
  refine ⟨fun idle => ?_, fun room => ⟨fun n rest turn queue => ?_, fun lines some_ turn => ?_, fun turn => ?_⟩⟩
  · have stays : s.writerTurn = s := by
      obtain full | ⟨finished, none_⟩ := idle
      · exact if_pos (.inr (by rw [free]; omega))
      · rw [State.writerTurn, if_neg (not_not.2 finished)]
        rw [List.find?_eq_none.2 fun x _ ready => none_ x ((works_iff x).1 ready)]
        exact ite_self s
    show commit s s.writerTurn = _
    rw [stays, commit_self]
  · rw [takes .notices room turn]
    exact noticeTurn_commits control queue
  · have runs : exec .noticeWriterTurn s = commit s (s.statusTurn lines) := by
      obtain unfinished | ⟨turn, rfl⟩ := turn
      · show commit s s.writerTurn = _
        rw [State.writerTurn, if_neg (by rw [free, started]; simp; omega), if_pos (by rw [unfinished]; exact some_), unfinished]
      · exact takes .status room turn
    rw [runs]
    exact statusTurn_commits control lines
  · rw [takes .ringTail room turn]
    exact tailTurn_commits control

end Sys2Proof.Machine

/-! SUPPORT. Scan-out reads: frame starts, the plans that they latch, and the lines of a read (R5, R33, R38 to R42, R45,
R47). -/

namespace Sys2Proof.Machine

open Sys2Proof

set_option Elab.async false

/-! ## Frame starts (R38, R45, R47) -/

/-- A screen after a frame start that has latched `p` (R38, R45, R47). -/
def Screen.started (sc : Screen) (p : Plan) : Screen := { sc with plan := some p, watch := .lit, dark := some 0, covered := true }

/-- What a frame start leaves (R38, R45, R47 to R49). -/
theorem State.frameStart_eq {s : State} {i : Nat} {sc : Screen} (present : s.screen.screens[i]? = some sc) :
    s.frameStart i sc = State.coverageEvent { s with
      screen := { s.screen with screens := s.screen.screens.set i (sc.started (s.latchPlan i sc)) }
      notice := (if sc.watch = .dark then
          [{ kind := .screenLit, urgent := false, subject := BitVec.ofNat 32 i, detail := 0
             epoch := s.muster.epoch, stamp := s.time.uptime }]
        else []).foldl NoticeUnit.push s.notice } := by
  have covers : Screen.evalCovered (variantOf s.muster.state)
      { sc with plan := some (s.latchPlan i sc), watch := .lit, dark := some 0 } = sc.started (s.latchPlan i sc) := by
    have covered : decide ((s.latchPlan i sc).variant = variantOf s.muster.state) = true := decide_eq_true rfl
    simp only [Screen.evalCovered, Screen.isCovered, covered]
    rfl
  have twice : (s.screen.screens.modify i fun c =>
        { c with plan := some (s.latchPlan i sc), watch := .lit, dark := some 0 }).modify i
        (Screen.evalCovered (variantOf s.muster.state)) = s.screen.screens.set i (sc.started (s.latchPlan i sc)) := by
    rw [List.modify_modify_eq, modify_eq_set present, Function.comp, covers]
  rw [← twice]
  rfl

theorem State.frameStart_screen {s : State} {i : Nat} {sc : Screen} (present : s.screen.screens[i]? = some sc) :
    (s.frameStart i sc).screen.screens[i]? = some (sc.started (s.latchPlan i sc)) ∧
    (s.frameStart i sc).screen.glyphs = s.screen.glyphs ∧ (s.frameStart i sc).path = s.path ∧
    (s.frameStart i sc).cfg = s.cfg := by
  rw [State.frameStart_eq present, State.coverageEvent_eq]
  exact ⟨List.getElem?_set_self (List.getElem?_eq_some_iff.1 present).1, rfl, rfl, rfl⟩

/-! ## Lines of a scan-out read (R5, R33) -/

/-- The resolution of a line of a screen where `plan` stands (R33). -/
def Screen.resolves (sc : Screen) (glyphs : Vector Glyph 64) (plan : Option Plan) (a : Addr) : Resolution :=
  match sc.conf.offset a, plan with
  | some o, some p => planLine glyphs sc.conf.panes p (o / sc.conf.stride) (o % sc.conf.stride / 64)
  | _, _ => .pass

/-- A new line of a scan-out read (R5, R6). -/
def Screen.newLine (sc : Screen) (pwq : List PwqEntry) (a : Addr) (res : Resolution) : ReadLine :=
  { addr := a, res
    st := match res with
      | .fill => .arrived (fillLine sc.conf.fill)
      | .pass => startState pwq a
      | .subst b => startState pwq b }

theorem State.newLine_screen {s : State} {tag : Tag} {i : Nat} {sc : Screen} (bound : s.cfg.tags[tag] = .scanout i)
    (present : s.screen.screens[i]? = some sc) (a : Addr) (res : Resolution) :
    s.newLine tag a res = sc.newLine s.path.pwq a res := by
  have bound : s.boundScreen tag = some i := by rw [State.boundScreen, bound]
  cases res with
  | fill => simp only [State.newLine, Screen.newLine, State.fillOf, bound, present]
  | pass | subst => rfl

/-- A line that is no frame start is resolved with the plan that stands (R33). -/
theorem State.resolveLine_stands {s : State} {tag : Tag} {i : Nat} {sc : Screen} (bound : s.cfg.tags[tag] = .scanout i)
    (present : s.screen.screens[i]? = some sc) {a : Addr} (h : sc.conf.offset a ≠ some 0) :
    s.resolveLine tag a = (s, sc.resolves s.screen.glyphs sc.plan a) := by
  have bound : s.boundScreen tag = some i := by rw [State.boundScreen, bound]
  simp only [State.resolveLine, bound, present, Screen.resolves]
  cases offset : sc.conf.offset a with
  | none => rfl
  | some o =>
    have later : o ≠ 0 := fun zero => h (by rw [offset, zero])
    simp only [if_neg later, State.resolveIn, present]
    cases sc.plan <;> rfl

/-- A frame start is resolved with the plan that it latches (R33, R38). -/
theorem State.resolveLine_starts {s : State} {tag : Tag} {i : Nat} {sc : Screen} (bound : s.cfg.tags[tag] = .scanout i)
    (present : s.screen.screens[i]? = some sc) {a : Addr} (h : sc.conf.offset a = some 0) :
    s.resolveLine tag a = (s.frameStart i sc, sc.resolves s.screen.glyphs (some (s.latchPlan i sc)) a) := by
  have bound : s.boundScreen tag = some i := by rw [State.boundScreen, bound]
  obtain ⟨screen, glyphs, -⟩ := State.frameStart_screen present
  simp only [State.resolveLine, bound, present, Screen.resolves, h, if_true, State.resolveIn, screen, glyphs]
  rfl

/-! ## The whole read (R5, R38) -/

/-- Whether one of the first `n` lines of a read from `first` is a frame start. -/
def Screen.begun (sc : Screen) (first : Addr) (n : Nat) : Bool :=
  (List.range n).any fun j => decide (sc.conf.offset (nthLine first j) = some 0)

theorem ScreenConf.offset_zero {c : ScreenConf} {a : Addr} (h : c.offset a = some 0) : a = c.base := by
  unfold ScreenConf.offset at h
  split_ifs at h with inside
  obtain ⟨low, -⟩ := inside
  have zero := Option.some_inj.1 h
  exact BitVec.eq_of_toNat_eq (by omega)

theorem nthLine_inj {a : Addr} {i j : Nat} (hi : i < 4) (hj : j < 4) (h : nthLine a i = nthLine a j) : i = j := by
  have := congrArg BitVec.toNat h
  simp only [nthLine, BitVec.toNat_add, BitVec.toNat_ofNat] at this
  omega

/-- A read begins at most one frame (R38). -/
theorem Screen.begun_of_start {sc : Screen} {first : Addr} {n : Nat} (short : n < 4)
    (start : sc.conf.offset (nthLine first n) = some 0) : sc.begun first n = false := by
  rw [Screen.begun, List.any_eq_false]
  intro j mem
  have before := List.mem_range.1 mem
  rw [decide_eq_true_eq]
  intro other
  exact absurd (nthLine_inj (by omega) short
    ((ScreenConf.offset_zero other).trans (ScreenConf.offset_zero start).symm)) (by omega)

theorem Screen.begun_succ (sc : Screen) (first : Addr) (n : Nat) :
    sc.begun first (n + 1) = (sc.begun first n || decide (sc.conf.offset (nthLine first n) = some 0)) := by
  rw [Screen.begun, List.range_succ, List.any_append, List.any_cons, List.any_nil, Bool.or_false]
  rfl

/-- The lines of a scan-out read: a frame start latches a plan for itself and the later lines (R5, R33, R38). -/
theorem takeReadLines_screen {s : State} {tag : Tag} {i : Nat} {sc : Screen} (bound : s.cfg.tags[tag] = .scanout i)
    (present : s.screen.screens[i]? = some sc) (first : Addr) {n : Nat} (short : n ≤ 4) :
    ((List.range n).map (nthLine first)).foldl (takeReadLine tag) (s, []) =
      (if sc.begun first n then s.frameStart i sc else s,
        (List.range n).map fun j => sc.newLine s.path.pwq (nthLine first j)
          (sc.resolves s.screen.glyphs (if sc.begun first (j + 1) then some (s.latchPlan i sc) else sc.plan)
            (nthLine first j))) := by
  induction n with
  | zero => rfl
  | succ n ih =>
    obtain ⟨screen, glyphs, path, cfg⟩ := State.frameStart_screen present
    have bound' : (s.frameStart i sc).cfg.tags[tag] = .scanout i := by rw [cfg]; exact bound
    rw [List.range_succ, List.map_append, List.foldl_append, ih (by omega), List.map_append]
    simp only [List.map_cons, List.map_nil, List.foldl_cons, List.foldl_nil, takeReadLine]
    rw [sc.begun_succ]
    by_cases start : sc.conf.offset (nthLine first n) = some 0
    · rw [Screen.begun_of_start (by omega) start, decide_eq_true start]
      simp only [Bool.false_or, if_true, Bool.false_eq_true, if_false]
      rw [State.resolveLine_starts bound present start, State.newLine_screen bound' screen, path]
      rfl
    · rw [decide_eq_false start, Bool.or_false]
      cases begun : sc.begun first n with
      | false =>
        simp only [Bool.false_eq_true, if_false]
        rw [State.resolveLine_stands bound present start, State.newLine_screen bound present]
      | true =>
        simp only [if_true]
        rw [State.resolveLine_stands bound' screen start, State.newLine_screen bound' screen, path, glyphs]
        rfl

/-- Whether an address is in the frame of a screen, and its offset there (R33). -/
theorem ScreenConf.offset_eq (c : ScreenConf) (a : Addr) : c.offset a =
    if (decide (c.base.toNat ≤ a.toNat) && decide (a.toNat - c.base.toNat < c.rows * c.stride)) = true then
      some (a.toNat - c.base.toNat) else none := by
  simp only [ScreenConf.offset, Bool.and_eq_true, decide_eq_true_eq]

/-- A scan-out read that finds a free tracker (R5). -/
theorem pspRead_screen {s : State} {tag : Tag} {i : Nat} {sc : Screen} (bound : s.cfg.tags[tag] = .scanout i)
    (present : s.screen.screens[i]? = some sc) (first : LineNo) {count : Nat} (short : count ≤ 4) (started : s.started = true)
    {k : Fin 8} (found : s.path.freeTracker = some k) :
    let w := if sc.begun (lineAddr first) count then s.frameStart i sc else s
    exec (.pspRead tag first count) s = commit s { w with path := { s.path with
      seq := s.path.seq + 1
      trackers := s.path.trackers.set k (some
        { tag, seq := s.path.seq, failed := false
          lines := (List.range count).map fun j => sc.newLine s.path.pwq (nthLine (lineAddr first) j)
            (sc.resolves s.screen.glyphs (if sc.begun (lineAddr first) (j + 1) then some (s.latchPlan i sc) else sc.plan)
              (nthLine (lineAddr first) j)) }) } } := by
  intro w
  have resolved := takeReadLines_screen bound present (lineAddr first) short
  have path : w.path = s.path := by
    simp only [w]
    split
    · exact (State.frameStart_screen present).2.2.1
    · rfl
  show commit s (s.readArrives tag (lineAddr first) count) = _
  rw [State.readArrives, if_neg (by simp [started]), found]
  simp only [State.resolveRead, resolved]
  rw [show (if sc.begun (lineAddr first) count = true then s.frameStart i sc else s) = w from rfl, path]

/-! ## The entries of a plan (R39 to R42) -/

/-- An ARROW pane's entry in NORMAL (R40). -/
theorem State.arrowEntry_normal (s : State) (i : Nat) (sc : Screen) : s.arrowEntry .none i sc =
    match sc.conf.kind, s.route.results.getD i .none, s.presentTarget i sc with
    | .wayfinding, .selected a _ _ g, .at b => if a = b then .glyph g else .inactive
    | _, _, _ => .inactive := by
  unfold State.arrowEntry
  dsimp only
  generalize s.route.results.getD i .none = r
  generalize s.presentTarget i sc = target
  cases sc.conf.kind with
  | general | programme => rfl
  | wayfinding =>
    cases r with
    | none | noRoute | fault => rfl
    | selected a _ _ g =>
      match target with
      | .noTarget | .none => rfl
      | .at b => by_cases same : a = b <;> simp [selectedGlyph, same]

/-- An ARROW pane's entry in DRILL and MUSTER (R40). -/
theorem State.arrowEntry_alert (s : State) {v : Variant} (alert : v = .drill ∨ v = .muster) (i : Nat) (sc : Screen) :
    s.arrowEntry v i sc =
      match s.route.results.getD i .none, s.presentTarget i sc with
      | .none, _ => .inactive
      | .selected a _ _ g, .at b => if a = b then .glyph g else .glyph 10
      | _, _ => .glyph 10 := by
  have entry : s.arrowEntry v i sc =
      match s.route.results.getD i .none, selectedGlyph (s.route.results.getD i .none) (s.presentTarget i sc) with
      | .none, _ => .inactive
      | _, some g => .glyph g
      | _, none => .glyph 10 := by
    obtain rfl | rfl := alert <;> rfl
  rw [entry]
  generalize s.route.results.getD i .none = r
  generalize s.presentTarget i sc = target
  cases r with
  | none | noRoute | fault => rfl
  | selected a _ _ g =>
    match target with
    | .noTarget | .none => rfl
    | .at b => by_cases same : a = b <;> simp [selectedGlyph, same]

theorem countdownEntry_normal (sel : Selection) : countdownEntry .none sel =
    match sel.next, sel.countdown with
    | some _, some n => if n ≤ 99 then .digits (32 + n / 10) (32 + n % 10) else .digits 42 42
    | _, _ => .inactive := by
  unfold countdownEntry
  cases sel.next <;> cases sel.countdown <;> rfl

/-- The entries of a plan latched in NORMAL (R40 to R42). -/
theorem State.paneEntry_normal (s : State) (i : Nat) (sc : Screen) (q : Pane) :
    let r := s.route.results.getD i .none
    let target := s.presentTarget i sc
    let sel := s.selectionOf i
    s.paneEntry .none i sc q = match q.kind with
      | .arrow => match sc.conf.kind, r, target with
        | .wayfinding, .selected a _ _ g, .at b => if a = b then .glyph g else .inactive
        | _, _, _ => .inactive
      | .station | .banner => .inactive
      | .now => match sel.now with
        | some e => if s.captionOf e 16 = 0 then .inactive else .caption (s.captionOf e 16)
        | none => .inactive
      | .next => match sel.next with
        | some e => if s.captionOf e 20 = 0 then .inactive else .caption (s.captionOf e 20)
        | none => .inactive
      | .countdown => match sel.next, sel.countdown with
        | some _, some n => if n ≤ 99 then .digits (32 + n / 10) (32 + n % 10) else .digits 42 42
        | _, _ => .inactive := by
  intro r target sel
  unfold State.paneEntry
  cases q.kind with
  | arrow => exact s.arrowEntry_normal i sc
  | station | banner => rfl
  | now => cases sel.now <;> rfl
  | next => cases sel.next <;> rfl
  | countdown => exact countdownEntry_normal _

/-- The entries of a plan latched in DRILL, MUSTER or STANDDOWN (R40 to R42). -/
theorem State.paneEntry_outside (s : State) (i : Nat) (sc : Screen) (q : Pane) {v : Variant} {banner : Nat}
    (h : (v = .drill ∧ banner = 48) ∨ (v = .muster ∧ banner = 49) ∨ (v = .allclear ∧ banner = 50)) :
    s.paneEntry v i sc q = match q.kind with
      | .banner => .glyph banner
      | .arrow => if v = .allclear then .inactive else
          match s.route.results.getD i .none, s.presentTarget i sc with
          | .none, _ => .inactive
          | .selected a _ _ g, .at b => if a = b then .glyph g else .glyph 10
          | _, _ => .glyph 10
      | .station => if v = .allclear then .inactive else match s.effective sc.conf.home with
        | some e => .glyph (16 + e.val)
        | none => .glyph 10
      | .now | .next | .countdown => .inactive := by
  unfold State.paneEntry
  cases q.kind with
  | arrow =>
    obtain ⟨rfl, -⟩ | ⟨rfl, -⟩ | ⟨rfl, -⟩ := h
    · exact s.arrowEntry_alert (.inl rfl) i sc
    · exact s.arrowEntry_alert (.inr rfl) i sc
    · rfl
  | station =>
    obtain ⟨rfl, -⟩ | ⟨rfl, -⟩ | ⟨rfl, -⟩ := h
    · exact (if_neg nofun).symm
    · exact (if_neg nofun).symm
    · rfl
  | banner => obtain ⟨rfl, rfl⟩ | ⟨rfl, rfl⟩ | ⟨rfl, rfl⟩ := h <;> rfl
  | now | next | countdown => obtain ⟨rfl, -⟩ | ⟨rfl, -⟩ | ⟨rfl, -⟩ := h <;> rfl

/-- Settles O17. -/
theorem frameStartLatchesPlan : Obligations.FrameStartLatchesPlan := by
  refine ⟨fun tag first count s i sc started bound present free short => ?_, fun s i sc decided => ?_⟩
  · intro addr offset inFrame starts p governs res waits line
    obtain ⟨k, found, empty⟩ := Path.freeTracker_eq_some free
    have offset_eq (j : Nat) : sc.conf.offset (addr j) = if inFrame j = true then some (offset j) else none :=
      sc.conf.offset_eq (addr j)
    have starts_eq (j : Nat) : starts j = decide (sc.conf.offset (addr j) = some 0) := by
      rw [offset_eq]
      simp only [starts]
      cases inFrame j <;> simp
    have begun_eq (n : Nat) : (List.range n).any starts = sc.begun (lineAddr first) n :=
      congrArg _ (funext starts_eq)
    have res_eq (j : Nat) : res j = sc.resolves s.screen.glyphs
        (if sc.begun (lineAddr first) (j + 1) = true then some p else sc.plan) (addr j) := by
      have governs_eq : governs j = if sc.begun (lineAddr first) (j + 1) = true then some p else sc.plan := by
        simp only [governs, begun_eq]
      simp only [res, Screen.resolves, offset_eq, ← governs_eq]
      cases inFrame j with
      | false => cases governs j <;> rfl
      | true => cases governs j <;> rfl
    have waits_eq (a : Addr) : waits a = startState s.path.pwq a := by
      simp only [waits, startState, barrierFor]
      cases (s.path.pwq.filter fun e => decide (e.addr = a)).getLast? <;> rfl
    have line_eq (j : Nat) : line j = sc.newLine s.path.pwq (addr j) (res j) := by
      simp only [line, Screen.newLine, waits_eq]
      rfl
    have lines_eq : (List.range count).map line = (List.range count).map fun j => sc.newLine s.path.pwq (addr j)
        (sc.resolves s.screen.glyphs (if sc.begun (lineAddr first) (j + 1) = true then some p else sc.plan) (addr j)) :=
      List.map_congr_left fun j _ => by rw [line_eq, res_eq]
    have runs := pspRead_screen bound present first short started found
    rw [lines_eq, begun_eq]
    cases begun : sc.begun (lineAddr first) count with
    | false =>
      simp only [begun, Bool.false_eq_true, if_false] at runs
      exact ⟨_, k, runs.trans (commit_of_same fun _ => rfl), empty, rfl, sameWrites_refl _, fun _ => rfl, nofun⟩
    | true =>
      simp only [begun, if_true] at runs
      obtain ⟨t, next, same, writes, -⟩ := runsTo_commit runs
      rw [State.frameStart_eq present, State.coverageEvent_eq] at same
      refine ⟨t, k, next, empty, ?_, ?_, nofun, fun _ => ⟨?_, ?_, ?_, ?_⟩⟩
      · rw [same]
        rfl
      · exact writes
      · rw [same]
        rfl
      · rw [same]
        rfl
      · rw [NoticesHanded, List.foldl_append, same]
        rfl
      · rw [same]
  · intro p r target sel caption
    refine ⟨rfl, rfl, rfl, fun normal => ?_, fun v index banner code => ?_⟩
    · have variant : p.variant = .none := by
        show variantOf s.muster.state = _
        rw [normal]
        rfl
      refine ⟨variant, ?_, fun q _ => ?_⟩
      · show s.planOverride p.variant sc = _
        rw [variant]
        rfl
      · rw [variant]
        exact s.paneEntry_normal i sc q
    · have variant : p.variant = v := by
        show variantOf s.muster.state = _
        obtain ⟨state, rfl, -⟩ | ⟨state, rfl, -⟩ | ⟨state, rfl, -⟩ := code <;> rw [state] <;> rfl
      refine ⟨variant, ?_, fun q _ => ?_⟩
      · show s.planOverride p.variant sc = _
        rw [variant]
        obtain ⟨-, rfl, rfl, -⟩ | ⟨-, rfl, rfl, -⟩ | ⟨-, rfl, rfl, -⟩ := code <;> rfl
      · refine s.paneEntry_outside i sc q ?_
        obtain ⟨-, rfl, -, rfl⟩ | ⟨-, rfl, -, rfl⟩ | ⟨-, rfl, -, rfl⟩ := code <;> simp

end Sys2Proof.Machine

/-! SUPPORT. The units that a rescan's read hands over, and what each table takes from them (R129). -/

namespace Sys2Proof.Machine

open Sys2Proof

set_option Elab.async false

/-! ## The units of a read (R129) -/

/-- The arrived line that holds unit `i` of a table of `size` units, where the unit is to be taken (R129). -/
def Rescan.source (r : Rescan) (size : Nat) (lines : List (Option LineData)) (i : Nat) : Option LineData :=
  let per := unitsPerLine r.table
  if r.first * per ≤ i ∧ i < r.first * per + lines.length * per ∧ i < size ∧ r.touched.getD (i - r.first * per) false = false then
    (lines[(i - r.first * per) / per]?).join
  else none

/-- The units of a read that are to be taken, in order (R129). -/
def Rescan.taken (r : Rescan) (size : Nat) (lines : List (Option LineData)) : List Nat :=
  ((List.range (lines.length * unitsPerLine r.table)).map fun x => r.first * unitsPerLine r.table + x).filter
    fun i => (r.source size lines i).isSome

/-- Where unit `i` stands in its line. -/
def Rescan.offsetOf (r : Rescan) (i : Nat) : Nat :=
  (i - r.first * unitsPerLine r.table) % unitsPerLine r.table * unitBytes r.table

theorem Rescan.mem_taken {r : Rescan} {size : Nat} {lines : List (Option LineData)} (i : Nat) :
    i ∈ r.taken size lines ↔ (r.source size lines i).isSome = true := by
  rw [Rescan.taken, List.mem_filter]
  refine ⟨And.right, fun some_ => ⟨?_, some_⟩⟩
  dsimp only [Rescan.source] at some_
  split at some_
  next inside =>
    obtain ⟨low, high, -⟩ := inside
    exact List.mem_map.2 ⟨i - r.first * unitsPerLine r.table, List.mem_range.2 (by omega), by omega⟩
  next => cases some_

theorem Rescan.taken_nodup (r : Rescan) (size : Nat) (lines : List (Option LineData)) : (r.taken size lines).Nodup :=
  (List.nodup_range.map fun a b h => by omega).filter _

theorem Rescan.source_inside {r : Rescan} {size : Nat} {lines : List (Option LineData)} {i : Nat} {d : LineData}
    (h : r.source size lines i = some d) : i < size := by
  dsimp only [Rescan.source] at h
  split at h
  next inside => exact inside.2.2.1
  next => cases h

theorem range_mul (n per : Nat) :
    List.range (n * per) = (List.range n).flatMap fun j => (List.range per).map fun u => j * per + u := by
  induction n with
  | zero => simp
  | succ n ih => rw [Nat.succ_mul, List.range_add, ih, List.range_succ, List.flatMap_append, List.flatMap_singleton]

/-- The units to be taken, each with its line and its place there (R129). -/
def scanUnits (taken : List Nat) (src : Nat → Option LineData) (off : Nat → Nat) : List ScanUnit :=
  taken.filterMap fun i => (src i).map fun d => { index := i, data := d, offset := off i }

/-- Unit `u` of line `j` of a read. -/
theorem Rescan.unit_place (r : Rescan) (j : Nat) {u : Nat} (small : u < unitsPerLine r.table) :
    let i := r.first * unitsPerLine r.table + (j * unitsPerLine r.table + u)
    (i - r.first * unitsPerLine r.table) / unitsPerLine r.table = j ∧ r.offsetOf i = u * unitBytes r.table := by
  intro i
  rw [Rescan.offsetOf, show i - r.first * unitsPerLine r.table = j * unitsPerLine r.table + u from Nat.add_sub_cancel_left ..,
    Nat.mul_comm j, Nat.mul_add_div (unitsPerLine_pos _), Nat.mul_add_mod, Nat.div_eq_of_lt small, Nat.mod_eq_of_lt small]
  exact ⟨rfl, rfl⟩

theorem Rescan.source_unit (r : Rescan) (size : Nat) {lines : List (Option LineData)} {j u : Nat} (inside : j < lines.length)
    (small : u < unitsPerLine r.table) : r.source size lines (r.first * unitsPerLine r.table + (j * unitsPerLine r.table + u)) =
      if r.first * unitsPerLine r.table + (j * unitsPerLine r.table + u) < size ∧
          r.touched.getD (j * unitsPerLine r.table + u) false = false then (lines[j]?).join else none := by
  obtain ⟨line, -⟩ := r.unit_place j small
  have last : j * unitsPerLine r.table + u < lines.length * unitsPerLine r.table :=
    calc j * unitsPerLine r.table + u < j * unitsPerLine r.table + unitsPerLine r.table := Nat.add_lt_add_left small _
      _ = (j + 1) * unitsPerLine r.table := (Nat.succ_mul ..).symm
      _ ≤ lines.length * unitsPerLine r.table := Nat.mul_le_mul_right _ inside
  rw [Rescan.source, line, Nat.add_sub_cancel_left]
  refine if_congr ⟨fun h => h.2.2, fun h => ⟨Nat.le_add_right .., Nat.add_lt_add_left last _, h⟩⟩ rfl rfl

theorem Rescan.units_eq (r : Rescan) (size : Nat) (lines : List (Option LineData)) :
    ((r.units lines).filter fun u => decide (u.index < size)) =
      scanUnits (r.taken size lines) (r.source size lines) r.offsetOf := by
  rw [scanUnits, Rescan.taken, List.filterMap_filter, List.filterMap_map, range_mul, List.filterMap_flatMap, Rescan.units,
    List.filter_flatMap]
  refine List.flatMap_congr fun j mem => ?_
  have inside := List.mem_range.1 mem
  rw [List.filterMap_map]
  have skip (i : Nat) : (if (r.source size lines i).isSome = true then
      (r.source size lines i).map fun d => ({ index := i, data := d, offset := r.offsetOf i } : ScanUnit) else none) =
      (r.source size lines i).map fun d => { index := i, data := d, offset := r.offsetOf i } := by
    cases r.source size lines i <;> rfl
  have source (u : Nat) (mem : u ∈ List.range (unitsPerLine r.table)) :=
    r.source_unit size inside (List.mem_range.1 mem)
  cases line : lines[j]? with
  | none => exact absurd inside (by simpa using line)
  | some x =>
    rw [line] at source
    cases x with
    | none =>
      refine (List.filterMap_eq_nil_iff.2 fun u mem => ?_).symm
      rw [Function.comp, Function.comp, skip, source u mem]
      simp
    | some d =>
      rw [List.filter_filterMap]
      refine List.filterMap_congr fun u mem => ?_
      obtain ⟨-, offset⟩ := r.unit_place j (List.mem_range.1 mem)
      rw [Function.comp, Function.comp, skip, source u mem, offset]
      rw [List.getD_eq_getElem?_getD]
      cases (r.touched[j * unitsPerLine r.table + u]?).getD false with
      | true => simp
      | false =>
        by_cases small : r.first * unitsPerLine r.table + (j * unitsPerLine r.table + u) < size
        · simp [small, Nat.add_mul, Nat.add_assoc]
        · simp [small, Nat.add_mul, Nat.add_assoc]
          exact Nat.not_lt.1 small

theorem length_scanUnits {taken : List Nat} {src : Nat → Option LineData} (off : Nat → Nat)
    (some_ : ∀ i ∈ taken, (src i).isSome = true) : (scanUnits taken src off).length = taken.length :=
  List.filterMap_length_eq_length.2 fun i mem => by rw [Option.isSome_map]; exact some_ i mem

/-! ## What each taken unit gives (R129) -/

/-- What the units to be taken give, each with its number. -/
def scanTakes {β : Type} (taken : List Nat) (src : Nat → Option LineData) (f : Nat → LineData → β) : List (Nat × β) :=
  taken.filterMap fun i => (src i).map fun d => (i, f i d)

theorem map_scanUnits {β : Type} (taken : List Nat) (src : Nat → Option LineData) (off : Nat → Nat) (f : ScanUnit → β) :
    (scanUnits taken src off).map (fun u => (u.index, f u)) =
      scanTakes taken src fun i d => f { index := i, data := d, offset := off i } := by
  rw [scanUnits, List.map_filterMap, scanTakes]
  refine List.filterMap_congr fun i _ => ?_
  cases src i <;> rfl

/-- The units to be taken: those with a line, each once. -/
structure ScanTaken (taken : List Nat) (src : Nat → Option LineData) (size : Nat) : Prop where
  mem : ∀ i, i ∈ taken ↔ (src i).isSome = true
  once : taken.Nodup
  inside : ∀ i d, src i = some d → i < size

theorem Rescan.scanTaken (r : Rescan) (size : Nat) (lines : List (Option LineData)) :
    ScanTaken (r.taken size lines) (r.source size lines) size :=
  ⟨r.mem_taken, r.taken_nodup size lines, fun _ _ => Rescan.source_inside⟩

section

variable {β : Type} {taken : List Nat} {src : Nat → Option LineData} {size : Nat} {f : Nat → LineData → β}

theorem ScanTaken.mem_takes (h : ScanTaken taken src size) {i : Nat} {b : β} :
    (i, b) ∈ scanTakes taken src f ↔ ∃ d, src i = some d ∧ b = f i d := by
  rw [scanTakes, List.mem_filterMap]
  constructor
  · rintro ⟨j, -, at_⟩
    obtain ⟨d, found, same⟩ := Option.map_eq_some_iff.1 at_
    obtain ⟨rfl, rfl⟩ := Prod.mk.inj same
    exact ⟨d, found, rfl⟩
  · rintro ⟨d, found, rfl⟩
    exact ⟨i, (h.mem i).2 (by rw [found]; rfl), by rw [found]; rfl⟩

theorem ScanTaken.takes_once (h : ScanTaken taken src size) : ((scanTakes taken src f).map (·.1)).Nodup := by
  have indices : (scanTakes taken src f).map (·.1) = taken.filter fun i => (src i).isSome := by
    rw [scanTakes, List.map_filterMap, ← List.filterMap_eq_filter]
    refine List.filterMap_congr fun i _ => ?_
    cases found : src i <;> simp [Option.guard, found]
  rw [indices]
  exact h.once.filter _

theorem countP_scanTakes (p : Nat × β → Bool) : (scanTakes taken src f).countP p =
    taken.countP fun i => ((src i).map fun d => p (i, f i d)).getD false := by
  rw [scanTakes, List.countP_filterMap]
  refine List.countP_congr fun i _ => ?_
  cases src i <;> simp

end

/-! ## The tables (R87, R117, R118, R129, R133) -/

/-- What the programme shadow takes from a rescan's read, each entry evaluated (R117, R118, R129). -/
theorem State.takeUnits_programme (s : State) {taken : List Nat} {src : Nat → Option LineData} (off : Nat → Nat)
    (h : ScanTaken taken src s.prog.shadow.length) :
    let entry (i : Nat) (d : LineData) : ShadowEntry :=
      { bytes := sliceBytes d (off i), status := statusOf (sliceBytes d (off i)) }
    ∃ (prog : ProgUnit) (work : List Nat),
      s.takeUnits .programme (scanUnits taken src off) = { s with
        prog := prog, route := { s.route with work := work }
        notice := (taken.filterMap fun i => (src i).bind fun d => (s.prog.shadow[i]?).bind fun e =>
          s.rejectReport i e.status (entry i d).status).foldl NoticeUnit.push s.notice } ∧
      prog = { s.prog with shadow := prog.shadow, order := prog.order, rejected := prog.rejected, sel := prog.sel } ∧
      (∀ (i : Nat) (e : ShadowEntry), s.prog.shadow[i]? = some e →
        prog.shadow[i]? = some (((src i).map (entry i)).getD e)) ∧
      prog.rejected = satAdd s.prog.rejected
        (taken.countP fun i => ((src i).map fun d => (entry i d).status.isRejected).getD false) ∧
      prog.sel = s.screen.screens.map prog.select ∧
      ∀ t : State, t.prog = prog → t.route.work = work → FeaturedHanded s t := by
  intro entry
  have fold : (scanUnits taken src off).foldl State.scanEntry s =
      (scanTakes taken src fun i d => fun _ => sliceBytes d (off i)).foldl (fun t q => t.entryTaken q.1 q.2) s := by
    rw [← map_scanUnits taken src off fun u => fun _ => sliceBytes u.data u.offset, List.foldl_map]
    rfl
  obtain ⟨shadow, order, rejected, notice, eq, -, entries, count, notices⟩ :=
    s.entriesTaken (scanTakes taken src fun i d => fun _ => sliceBytes d (off i)) h.takes_once
  let s' : State := { s with prog := { s.prog with shadow := shadow, order := order, rejected := rejected } }
  refine ⟨s'.computeSelections.prog, s'.computeSelections.route.work, ?_, rfl, fun i e found => ?_, ?_, rfl, ?_⟩
  · rw [State.takeUnits, fold, eq, notices, scanTakes, List.filterMap_filterMap]
    refine congrArg (fun n => ({ s'.computeSelections with notice := List.foldl NoticeUnit.push s.notice n } : State))
      (List.filterMap_congr fun i _ => ?_)
    cases src i with
    | none => rfl
    | some d => cases found : s.prog.shadow[i]? <;> simp [ProgUnit.evaluates, found, entry]
  · obtain ⟨taken, untouched⟩ := entries i e found
    cases line : src i with
    | none => exact untouched fun f mem => by obtain ⟨d, found, -⟩ := h.mem_takes.1 mem; rw [line] at found; cases found
    | some d => exact taken _ (h.mem_takes.2 ⟨d, line, rfl⟩)
  · refine count.trans ?_
    rw [countP_scanTakes]
    refine congrArg (satAdd s.prog.rejected) (List.countP_congr fun i _ => ?_)
    cases line : src i with
    | none => rfl
    | some d =>
      have small := h.inside i d line
      simp [ProgUnit.evaluates, List.getElem?_eq_getElem small, entry]
  · intro t prog work
    have handed := s'.computeSelections_handed
    rw [FeaturedHanded] at handed ⊢
    rw [prog, work]
    exact handed

/-- What the segments take from a rescan's read (R87, R129). -/
theorem State.takeUnits_segments (s : State) {taken : List Nat} {src : Nat → Option LineData} (off : Nat → Nat)
    (h : ScanTaken taken src s.route.segments.length) :
    ∃ r : RouteUnit, s.takeUnits .segments (scanUnits taken src off) = { s with route := r } ∧
      r = { s.route with segments := r.segments, badSeg := r.badSeg, work := r.work } ∧
      (∀ (i : Nat) (g : Segment), s.route.segments[i]? = some g →
        r.segments[i]? = some (((src i).map fun d => g.withCode (vecByte d (off i))).getD g)) ∧
      r.badSeg = satAdd s.route.badSeg
        (taken.countP fun i => ((src i).map fun d => decide (2 < (vecByte d (off i)).toNat)).getD false) ∧
      r.work = if r.segments = s.route.segments then s.route.work else s.arrowScreens.foldl appendWork s.route.work := by
  obtain ⟨r, eq, fields, -, states, count, work⟩ :=
    s.takeBytes_taken (scanTakes taken src fun i d => vecByte d (off i)) h.takes_once
  refine ⟨r, ?_, fields, fun i g found => ?_, ?_, work⟩
  · rw [State.takeUnits, map_scanUnits taken src off fun u => vecByte u.data u.offset, eq]
  · obtain ⟨coded, untouched⟩ := states i g found
    cases line : src i with
    | none => exact untouched fun b mem => by obtain ⟨d, found, -⟩ := h.mem_takes.1 mem; rw [line] at found; cases found
    | some d => exact coded _ (h.mem_takes.2 ⟨d, line, rfl⟩)
  · rw [count, countP_scanTakes]
    refine congrArg (satAdd s.route.badSeg) (List.countP_congr fun i _ => ?_)
    cases line : src i with
    | none => rfl
    | some d => simp [h.inside i d line]

/-- Home station values for cabins that differ are taken at one instant (R129, R133). -/
theorem State.takeHomes_eq (l : List (Nat × Byte)) (s : State) (once : (l.map (·.1)).Nodup) : ∃ cabins pend,
    l.foldl (fun t q => t.takeHome q.1 q.2) s = { s with cabin :=
      { cabins := cabins, pend := pend
        badHome := satAdd s.cabin.badHome
          (l.countP fun q => decide (q.1 < s.cabin.cabins.length) && decide (11 < q.2.toNat)) } } ∧
    cabins.length = s.cabin.cabins.length ∧
    ∀ (i : Nat) (c : Cabin), s.cabin.cabins[i]? = some c →
      (∀ b, (i, b) ∈ l → cabins[i]? = some (s.homed b c)) ∧ ((∀ b, (i, b) ∉ l) → cabins[i]? = some c) := by
  induction l generalizing s with
  | nil => exact ⟨_, _, by rw [List.foldl_nil, List.countP_nil, satAdd_zero], rfl, fun i c found => ⟨nofun, fun _ => found⟩⟩
  | cons q l ih =>
    obtain ⟨fresh, once⟩ := List.nodup_cons.1 once
    obtain ⟨pend, head⟩ := s.takeHome_eq q.1 q.2
    obtain ⟨cabins, pend', eq, length, states⟩ := ih (s.takeHome q.1 q.2) once
    rw [head] at eq length states
    rw [List.length_modify] at length
    refine ⟨cabins, pend', ?_, length, fun i c found => ?_⟩
    · rw [List.foldl_cons, head, eq]
      refine congrArg (fun n => ({ s with cabin := { cabins := cabins, pend := pend', badHome := n } } : State)) ?_
      simp only [List.length_modify, List.countP_cons, Bool.and_eq_true, decide_eq_true_iff]
      split
      · rw [satAdd_satInc]
      · rfl
    · by_cases own : i = q.1
      · subst own
        have last := (states q.1 (s.homed q.2 c) (by simp [found])).2 fun b mem => fresh (List.mem_map_of_mem (f := (·.1)) mem)
        refine ⟨fun b mem => ?_, fun none_ => absurd List.mem_cons_self (none_ q.2)⟩
        obtain same | later := List.mem_cons.1 mem
        · obtain rfl : b = q.2 := congrArg Prod.snd same
          exact last
        · exact absurd (List.mem_map_of_mem (f := (·.1)) later) fresh
      · obtain ⟨taken, untouched⟩ := states i c (by simp [Ne.symm own, found])
        refine ⟨fun b mem => taken b ?_, fun none_ => untouched fun b mem => none_ b (List.mem_cons_of_mem _ mem)⟩
        exact (List.mem_cons.1 mem).resolve_left fun same => own (congrArg Prod.fst same)

/-- What the cabins take from a rescan's read, and the notices due after it (R129, R133, R143). -/
theorem State.takeUnits_cabins (s : State) {taken : List Nat} {src : Nat → Option LineData} (off : Nat → Nat)
    (h : ScanTaken taken src s.cabin.cabins.length) : ∃ u : CabinUnit,
    s.takeUnits .cabins (scanUnits taken src off) = { s with
      cabin := u, notice := (cabinNotices s { s with cabin := u }).foldl NoticeUnit.push s.notice } ∧
    (∀ (i : Nat) (c : Cabin), s.cabin.cabins[i]? = some c → ∃ d : Cabin,
      u.cabins[i]? = some (d.told s.time.uptime) ∧ s.HomeTaken c d ∧
      (∀ x, src i = some x → d.home =
        if h : (vecByte x (off i + 1)).toNat < 12 then some ⟨_, h⟩ else c.home) ∧
      (src i = none → d.home = c.home)) ∧
    u.badHome = satAdd s.cabin.badHome
      (taken.countP fun i => ((src i).map fun d => decide (11 < (vecByte d (off i + 1)).toNat)).getD false) := by
  have fold : (scanUnits taken src off).foldl (fun t u => t.takeHome u.index (vecByte u.data (u.offset + 1))) s =
      (scanTakes taken src fun i d => vecByte d (off i + 1)).foldl (fun t q => t.takeHome q.1 q.2) s := by
    rw [← map_scanUnits taken src off fun u => vecByte u.data (u.offset + 1), List.foldl_map]
  obtain ⟨cabins, pend, eq, length, states⟩ :=
    State.takeHomes_eq (scanTakes taken src fun i d => vecByte d (off i + 1)) s h.takes_once
  rw [State.takeUnits, fold, eq]
  let v : CabinUnit := { cabins := cabins, pend := pend, badHome := satAdd s.cabin.badHome <|
    ((scanTakes taken src fun i d => vecByte d (off i + 1)).countP fun q =>
      decide (q.1 < s.cabin.cabins.length) && decide (11 < q.2.toNat)) }
  have homes (i : Nat) (c : Cabin) (found : s.cabin.cabins[i]? = some c) : ∃ d : Cabin,
      cabins[i]? = some d ∧ s.HomeTaken c d ∧
      (∀ x, src i = some x → d.home = if h : (vecByte x (off i + 1)).toNat < 12 then some ⟨_, h⟩ else c.home) ∧
      (src i = none → d.home = c.home) := by
    obtain ⟨homed, untouched⟩ := states i c found
    cases line : src i with
    | none =>
      refine ⟨c, untouched fun b mem => ?_, .refl s c, nofun, fun _ => rfl⟩
      obtain ⟨d, found, -⟩ := h.mem_takes.1 mem
      rw [line] at found
      cases found
    | some x =>
      refine ⟨_, homed _ (h.mem_takes.2 ⟨x, line, rfl⟩), s.homed_taken _ c, ?_, nofun⟩
      rintro y same
      obtain rfl := Option.some_inj.1 same
      exact s.homed_home _ c
  have notices : State.dueNotices { s with cabin := v } = cabinNotices s (State.notifyCabins { s with cabin := v }) := by
    refine State.dueNotices_eq fun i d _ found _ => ?_
    have inside : i < s.cabin.cabins.length := length ▸ (List.getElem?_eq_some_iff.1 found).1
    obtain ⟨d', after, taken, -⟩ := homes i _ (List.getElem?_eq_getElem inside)
    obtain rfl := Option.some_inj.1 (after.symm.trans found)
    exact ⟨_, List.getElem?_eq_getElem inside, .of_risen taken.flag⟩
  refine ⟨(State.notifyCabins { s with cabin := v }).cabin, ?_, fun i c found => ?_, ?_⟩
  · exact congrArg (fun ns : List Notice => { State.notifyCabins { s with cabin := v } with
      notice := ns.foldl NoticeUnit.push s.notice }) notices
  · obtain ⟨d, after, rest⟩ := homes i c found
    refine ⟨d, ?_, rest⟩
    rw [State.notifyCabins_eq]
    exact List.getElem?_map.trans (congrArg (Option.map (Cabin.told s.time.uptime)) after)
  · refine (show _ = satAdd _ _ from rfl).trans ?_
    rw [countP_scanTakes]
    refine congrArg (satAdd s.cabin.badHome) (List.countP_congr fun i _ => ?_)
    cases line : src i with
    | none => rfl
    | some d => simp [h.inside i d line]

end Sys2Proof.Machine

/-! SUPPORT. A rescan, from its start through its reads to its end (R126 to R130). -/

namespace Sys2Proof.Machine

open Sys2Proof

set_option Elab.async false

/-! ## The end of a read (R129, R130) -/

/-- The rescan ends: its result is held where the IWQ is full, and else it is the last write there (R130, R149). -/
theorem settle_endScan (s u : State) {base : Addr} (control : u.cfg.control = some base) (rebuilt : Nat) (fault : Bool) :
    let t := settle s (u.endScan rebuilt fault)
    let detail : Word := BitVec.ofNat 32 rebuilt
    let flags : Byte := (if u.cmd.overrunMark = true then 1#8 else 0) ||| (if fault = true then 4#8 else 0)
    t.path.own = u.path.own ∧
    (16 ≤ u.path.iwq.length →
      t.cmd = { u.cmd with rescan := none, held := some { outcome := .done, fault := fault, detail := detail } }) ∧
    (u.path.iwq.length < 16 →
      t.cmd = { u.cmd with
        rescan := none, executing := false, held := none
        last := { seq := u.cmd.seqInHand, outcome := 1, flags := flags } } ∧
      ∃ m, List.Forall₂ SameWrite u.path.iwq m ∧ t.path.iwq = m ++
        [{ kind := .result, addr := base, en := enablesAt 32 8
           data := lineAt 32 ([u.cmd.seqInHand, 1, flags, 0] ++ bytes32 detail) }]) ∧
    t = { u with
      path := { u.path with iwq := t.path.iwq }, cmd := t.cmd, notice := { u.notice with dirty := t.notice.dirty } } := by
  obtain ⟨x, ends⟩ : ∃ x, x = u.endScan rebuilt fault := ⟨_, rfl⟩
  rw [← ends]
  intro t detail flags
  let u' : State := { u with cmd := { u.cmd with rescan := none } }
  let result : CmdResult := { outcome := .done, fault := fault, detail := detail }
  obtain ⟨same, writes, -⟩ := settle_follows s x
  have cmd : t.cmd = x.cmd := congrArg (·.cmd) same
  have own : t.path.own = x.path.own := congrArg (·.path.own) same
  rw [cmd, own]
  obtain room | full := Nat.lt_or_ge u.path.iwq.length 16
  · obtain rfl : x = u'.placeResult result := ends.trans (endCommand_room (s := u') result room)
    obtain ⟨m, kept, last⟩ := sameWrites_concat (l := u.path.iwq) (e := u'.resultEntry result) writes (fun i => nofun)
    have flags_eq : resultFlags u.cmd.overrunMark result = flags := by
      simp [resultFlags, result, flags]
    rw [← flags_eq]
    refine ⟨rfl, fun full => absurd full (Nat.not_le.2 room), fun _ => ⟨rfl, m, kept, last.trans ?_⟩, same⟩
    rw [State.resultEntry, show u'.cfg.control = some base from control]
    rfl
  · obtain rfl : x = { u' with cmd := { u'.cmd with held := some result } } := ends.trans (endCommand_full (s := u') result full)
    exact ⟨rfl, fun _ => rfl, fun room => absurd full (Nat.not_le.2 room), same⟩

/-- The next read of a rescan begins (R127). -/
theorem settle_startScanRead (s u : State) (w : Window) (table : ScanTable) (next rebuilt : Nat) :
    let t := settle s (u.startScanRead w table next rebuilt)
    let more := min 4 (w.lines - next)
    let record : Rescan :=
      { table := table, nextLine := next + more, rebuilt := rebuilt, first := next, count := more
        touched := List.replicate (more * unitsPerLine table) false }
    (t.cmd = { u.cmd with rescan := some record } ∧
      t.path.own = u.path.own.set 1 (some ((List.range more).map fun i =>
        { addr := w.base + BitVec.ofNat 32 (64 * (next + i))
          st := startState u.path.pwq (w.base + BitVec.ofNat 32 (64 * (next + i))) })) ∧
      List.Forall₂ SameWrite u.path.iwq t.path.iwq) ∧
    t = { u with
      path := { u.path with own := t.path.own, iwq := t.path.iwq }, cmd := t.cmd
      notice := { u.notice with dirty := t.notice.dirty } } := by
  intro t more record
  obtain ⟨same, writes, -⟩ := settle_follows s (u.startScanRead w table next rebuilt)
  have cmd : t.cmd = (u.startScanRead w table next rebuilt).cmd := congrArg (·.cmd) same
  have own : t.path.own = (u.startScanRead w table next rebuilt).path.own := congrArg (·.path.own) same
  refine ⟨⟨cmd, own.trans ?_, writes⟩, ?_⟩
  · refine congrArg (fun l => u.path.own.set 1 (some l)) (List.map_congr_left fun i _ => ?_)
    have address : nthLine (nthLine w.base next) i = w.base + BitVec.ofNat 32 (64 * (next + i)) := by
      rw [nthLine, nthLine, Nat.mul_add, BitVec.ofNat_add, BitVec.add_assoc]
    rw [address]
    rfl
  · rw [cmd, own]
    exact same

theorem any_isNone_iff {α : Type} (l : List (Option α)) : l.any Option.isNone = true ↔ none ∈ l := by
  rw [List.any_eq_true]
  refine ⟨?_, fun mem => ⟨none, mem, rfl⟩⟩
  rintro ⟨x, mem, missing⟩
  rwa [Option.isNone_iff_eq_none.1 missing] at mem

/-- What follows a read's units: the next read, or the end (R129, R130). -/
theorem State.scanHandOver_settles (s : State) {v u : State} {r : Rescan} {w : Window} {base : Addr} (lines : List (Option LineData))
    (rescan : v.cmd.rescan = some r) (window : v.cfg.windowOf r.table = some w) (control : v.cfg.control = some base)
    {taken : List Nat} (taken_eq : taken = r.taken (v.unitLimit r.table) lines)
    (units : v.takeUnits r.table (scanUnits taken (r.source (v.unitLimit r.table) lines) r.offsetOf) = u)
    (cfg : u.cfg = v.cfg) (path : u.path = v.path) (cmd : u.cmd = v.cmd) :
    let t := settle s (v.scanHandOver lines)
    (¬ none ∈ lines → r.nextLine < w.lines →
      let more := min 4 (w.lines - r.nextLine)
      let record : Rescan :=
        { table := r.table, nextLine := r.nextLine + more, rebuilt := r.rebuilt + taken.length
          first := r.nextLine, count := more, touched := List.replicate (more * unitsPerLine r.table) false }
      t.cmd = { v.cmd with rescan := some record } ∧
      t.path.own = v.path.own.set 1 (some ((List.range more).map fun i =>
        { addr := w.base + BitVec.ofNat 32 (64 * (r.nextLine + i))
          st := startState v.path.pwq (w.base + BitVec.ofNat 32 (64 * (r.nextLine + i))) })) ∧
      List.Forall₂ SameWrite v.path.iwq t.path.iwq) ∧
    (none ∈ lines ∨ w.lines ≤ r.nextLine →
      let fault := lines.any Option.isNone
      let detail : Word := BitVec.ofNat 32 (r.rebuilt + taken.length)
      let flags := (if v.cmd.overrunMark = true then 1#8 else 0) ||| (if fault = true then 4#8 else 0)
      (fault = true ↔ none ∈ lines) ∧ t.path.own = v.path.own ∧
      (16 ≤ v.path.iwq.length →
        t.cmd = { v.cmd with rescan := none, held := some { outcome := .done, fault := fault, detail := detail } }) ∧
      (v.path.iwq.length < 16 →
        t.cmd = { v.cmd with
          rescan := none, executing := false, held := none
          last := { seq := v.cmd.seqInHand, outcome := 1, flags := flags } } ∧
        ∃ m, List.Forall₂ SameWrite v.path.iwq m ∧ t.path.iwq = m ++
          [{ kind := .result, addr := base, en := enablesAt 32 8
             data := lineAt 32 ([v.cmd.seqInHand, 1, flags, 0] ++ bytes32 detail) }])) ∧
    t = { u with
      path := { v.path with own := t.path.own, iwq := t.path.iwq }, cmd := t.cmd
      notice := { u.notice with dirty := t.notice.dirty } } := by
  intro t
  have length : (scanUnits taken (r.source (v.unitLimit r.table) lines) r.offsetOf).length = taken.length :=
    length_scanUnits _ fun i mem => (r.mem_taken i).1 (taken_eq ▸ mem)
  have handed : v.scanHandOver lines =
      if lines.any Option.isNone = true then u.endScan (r.rebuilt + taken.length) true
      else if r.nextLine < w.lines then u.startScanRead w r.table r.nextLine (r.rebuilt + taken.length)
        else u.endScan (r.rebuilt + taken.length) false := by
    simp only [State.scanHandOver, rescan, Rescan.units_eq, ← taken_eq, length, units, cfg, window]
  have ended (fault : Bool) := settle_endScan s u (base := base) (by rw [cfg, control]) (r.rebuilt + taken.length) fault
  have reads := settle_startScanRead s u w r.table r.nextLine (r.rebuilt + taken.length)
  rw [path, cmd] at ended reads
  have failed_iff := any_isNone_iff lines
  by_cases failed : lines.any Option.isNone = true
  · rw [if_pos failed] at handed
    obtain ⟨own, full, room, eq⟩ := ended true
    rw [← handed] at own full room eq
    refine ⟨fun none_ => absurd (failed_iff.1 failed) none_, fun _ => ⟨failed_iff, own, ?_, ?_⟩, ?_⟩
    · rw [failed]
      exact full
    · rw [failed]
      exact room
    · rw [own]
      exact eq
  · rw [if_neg failed] at handed
    have arrived := Bool.not_eq_true _ ▸ failed
    by_cases more : r.nextLine < w.lines
    · rw [if_pos more] at handed
      obtain ⟨next, eq⟩ := reads
      rw [← handed] at next eq
      exact ⟨fun _ _ => next, fun h => h.elim (fun mem => absurd (failed_iff.2 mem) failed)
        fun done => absurd more (Nat.not_lt.2 done), eq⟩
    · rw [if_neg more] at handed
      obtain ⟨own, full, room, eq⟩ := ended false
      rw [← handed] at own full room eq
      refine ⟨fun _ less => absurd less more, fun _ => ⟨failed_iff, own, ?_, ?_⟩, ?_⟩
      · rw [arrived]
        exact full
      · rw [arrived]
        exact room
      · rw [own]
        exact eq

/-! ## The statement (R126 to R130) -/

theorem State.cmdRescan_starts {s : State} {arg : Nat} {table : ScanTable} {v : Window} (ready : s.isReady = true)
    (known : scanTableOf arg = some table) (window : s.cfg.windowOf table = some v) :
    s.cmdRescan arg = s.startScanRead v table 0 0 := by
  have decided : ¬ s.isReady = false := by rw [ready]; nofun
  simp only [State.cmdRescan, if_neg decided, known, window]

/-- RESCAN of a table whose window is there begins with the first read (R126, R127). -/
theorem rescan_starts (tag : Tag) (seq : Byte) (a : Word) {table : ScanTable} {v : Window} {s : State} {base : Addr}
    (slot : s.slotOpen base) (ready : s.isReady = true) (known : scanTableOf a.toNat = some table)
    (window : s.cfg.windowOf table = some v) :
    RunsTo (.rescan tag seq a) s ((s.slotWritten base 16 seq [a]).startScanRead v table 0 0) := by
  refine runsTo_commit ((exec_open slot (c := .rescan tag seq a) rfl (by decide)).trans (congrArg (commit s) ?_))
  show State.cmdRescan _ _ = _
  rw [slotWritten_arg_of_one]
  exact State.cmdRescan_starts ready known window

/-- A read's units change their table's copy, what follows from it and the notices, and nothing else (R129). -/
theorem State.takeUnits_parts (s : State) {table : ScanTable} {taken : List Nat} {src : Nat → Option LineData} (off : Nat → Nat)
    (h : ScanTaken taken src (s.unitLimit table)) : ∃ prog route cabin notice,
    s.takeUnits table (scanUnits taken src off) = { s with prog := prog, route := route, cabin := cabin, notice := notice } := by
  cases table with
  | programme =>
    obtain ⟨prog, work, units, -⟩ := s.takeUnits_programme off h
    exact ⟨_, _, _, _, units⟩
  | segments =>
    obtain ⟨route, units, -⟩ := s.takeUnits_segments off h
    exact ⟨_, _, _, _, units⟩
  | cabins =>
    obtain ⟨cabin, units, -⟩ := s.takeUnits_cabins off h
    exact ⟨_, _, _, _, units⟩

/-- Settles O44: the read's units by their table, and then the next read or the end. -/
theorem rescanRuns : Obligations.RescanRuns := by
  refine ⟨fun tag seq a table v s base slot ready known window => ?_, ?_⟩
  · intro w record
    obtain ⟨t, runs, follows⟩ := rescan_starts tag seq a slot ready known window
    refine ⟨t, runs, ?_⟩
    convert follows using 1
    simp only [State.startScanRead, State.startOwnRead, nthLine_zero, Nat.sub_zero, Nat.zero_add]
    rfl
  intro s l a r v lines q n base rescan window control own line issued others after per first units size source offset taken
    entry count shown outside failed
  obtain ⟨table, nextLine, rebuilt, first', count', touched⟩ := r
  let z : State := s.fetched (s.path.own.set 1 none) (faultsAfter s.path.memFault a) s.route.work s.route.recFault
  let r : Rescan := ⟨table, nextLine, rebuilt, first', count', touched⟩
  have runs : exec (.ownReadLineAnswer 1 l a) s = .next (settle s (z.scanHandOver after)) :=
    ownReadLineAnswer_last a own line issued others
  have size_eq : size = z.unitLimit table := by cases table <;> rfl
  have source_eq : source = r.source (z.unitLimit table) after :=
    show r.source size after = _ from congrArg (fun n => r.source n after) size_eq
  have taken_eq : taken = r.taken (z.unitLimit table) after :=
    show r.taken size after = _ from congrArg (fun n => r.taken n after) size_eq
  have known := r.scanTaken (z.unitLimit table) after
  rw [← taken_eq, ← source_eq] at known
  obtain ⟨prog, route, cabin, notice, parts⟩ := z.takeUnits_parts r.offsetOf known
  obtain ⟨more, ends, eq⟩ := State.scanHandOver_settles s (v := z) (r := r) after rescan window control taken_eq rfl
    (by rw [← source_eq, parts]) (by rw [← source_eq, parts]) (by rw [← source_eq, parts])
  rw [← source_eq] at eq
  refine ⟨_, runs, ?_⟩
  generalize settle s (z.scanHandOver after) = t at more ends eq ⊢
  rw [parts] at eq
  have prog_eq : t.prog = prog := congrArg (·.prog) eq
  have route_eq : t.route = route := congrArg (·.route) eq
  have cabin_eq : t.cabin = cabin := congrArg (·.cabin) eq
  have notice_eq : t.notice = { notice with dirty := t.notice.dirty } := congrArg (·.notice) eq
  refine ⟨?_, ?_, ?_, fun other => ?_, fun other => ?_, ?_, ?_, fun arrived less => ?_, ends, ?_⟩
  · rintro rfl
    obtain ⟨prog', work, taken', fields, entries, rejected, sel, handed⟩ := z.takeUnits_programme r.offsetOf known
    have same := parts.symm.trans taken'
    obtain rfl : prog = prog' := congrArg (·.prog) same
    rw [prog_eq]
    refine ⟨entries, rejected, sel, handed t prog_eq (congrArg (·.work) (route_eq.trans (congrArg (·.route) same))), fields, ?_⟩
    have notices : notice = _ := congrArg (·.notice) same
    rw [notice_eq, notices]
    refine Eq.mp (congrArg (NoticesHanded s.notice _) (List.filterMap_congr fun i _ => ?_)) (NoticesHanded.of_pushed t.notice.dirty rfl)
    generalize source i = x
    generalize here : s.prog.shadow[i]? = y
    rw [show z.prog.shadow[i]? = y from here]
    cases x with
    | none => rfl
    | some d =>
      cases y with
      | none => rfl
      | some e =>
        show State.rejectReport _ i e.status (entry i d).status = _
        dsimp only [State.rejectReport]
        generalize (entry i d).status = st
        cases st <;> rfl
  · rintro rfl
    obtain ⟨route', taken', fields, states, bad, work⟩ := z.takeUnits_segments r.offsetOf known
    have same := parts.symm.trans taken'
    obtain rfl : route = route' := congrArg (·.route) same
    rw [route_eq]
    refine ⟨states, bad, work, fields, ?_⟩
    have notices : notice = s.notice := congrArg (·.notice) same
    rw [notice_eq, notices]
    exact NoticesHanded.of_pushed (ns := []) _ rfl
  · rintro rfl
    obtain ⟨cabin', taken', homes, bad⟩ := z.takeUnits_cabins r.offsetOf known
    have same := parts.symm.trans taken'
    obtain rfl : cabin = cabin' := congrArg (·.cabin) same
    refine ⟨fun i c found => ?_, ?_, ?_⟩
    · obtain ⟨d, at_, taken_, homed, kept⟩ := homes i c found
      have shown_eq (h : Option StationIx) : shown h = s.shownStation h := (shownStation_eq s h).symm
      have outside_iff : outside ↔ outsideNormal s.muster.state = true := (outsideNormal_iff _).symm
      rw [cabin_eq]
      refine ⟨_, at_, ?_⟩
      rw [Cabin.told_eq]
      refine ⟨?_, homed, kept, fun out differ => ?_, fun same => ?_⟩
      · rw [← taken_.refresh, ← taken_.write]
      · rw [shown_eq, shown_eq] at differ
        exact taken_.changed (outside_iff.1 out) differ
      · rw [outside_iff, Bool.not_eq_true, shown_eq, shown_eq] at same
        exact taken_.same same
    · rw [cabin_eq]
      exact bad
    · have notices : notice = _ := congrArg (·.notice) same
      rw [notice_eq, notices]
      have same : cabinNotices s t = cabinNotices z { z with cabin := cabin } := by
        rw [cabinNotices, cabin_eq, eq]
        rfl
      rw [same]
      exact NoticesHanded.of_pushed _ rfl
  · rw [prog_eq]
    cases table with
    | programme => exact absurd rfl other
    | segments =>
      obtain ⟨route', taken', -⟩ := z.takeUnits_segments r.offsetOf known
      exact congrArg (·.prog) (parts.symm.trans taken')
    | cabins =>
      obtain ⟨cabin', taken', -⟩ := z.takeUnits_cabins r.offsetOf known
      exact congrArg (·.prog) (parts.symm.trans taken')
  · rw [cabin_eq]
    cases table with
    | cabins => exact absurd rfl other
    | segments =>
      obtain ⟨route', taken', -⟩ := z.takeUnits_segments r.offsetOf known
      exact congrArg (·.cabin) (parts.symm.trans taken')
    | programme =>
      obtain ⟨prog', work, taken', -⟩ := z.takeUnits_programme r.offsetOf known
      exact congrArg (·.cabin) (parts.symm.trans taken')
  · rintro rfl
    obtain ⟨prog', work, taken', -⟩ := z.takeUnits_programme r.offsetOf known
    have route' : route = { s.route with work := work } := congrArg (·.route) (parts.symm.trans taken')
    rw [route_eq, route']
  · rintro rfl
    obtain ⟨cabin', taken', -⟩ := z.takeUnits_cabins r.offsetOf known
    exact route_eq.trans (congrArg (·.route) (parts.symm.trans taken'))
  · obtain ⟨cmd, own_, writes⟩ := more arrived less
    exact ⟨cmd, own_.trans (Vector.set_set none _), writes⟩
  · rw [prog_eq, route_eq, cabin_eq, notice_eq]
    exact eq

end Sys2Proof.Machine

/-! SUPPORT. An accepted WRITE of any lines: its deliveries, and the two ways to say one of a slot's or a descriptor's
line (R2, R20, R147, R155). -/

namespace Sys2Proof.Machine

open Sys2Proof

set_option Elab.async false

/-! ## The queue and the copy are no part of the status block (R157) -/

/-- The state with another queue of writes and another copy of the slot. -/
def State.requeued (s : State) (p : List PwqEntry) (copy : Vector Byte 28) : State :=
  { s with path := { s.path with pwq := p }, cmd := { s.cmd with copy := copy } }

theorem State.showLine_requeued (mark : Bool) (d : LineData) (s : State) (i : Fin 7) (p : List PwqEntry) (copy : Vector Byte 28) :
    State.showLine mark d (s.requeued p copy) i = (State.showLine mark d s i).requeued p copy := by
  unfold State.showLine
  change (if s.path.unissued.any (IwqEntry.isStatus i) = true then _ else _) = _
  split
  · have merged : (s.requeued p copy).path.mergeStatus i d = { s.path.mergeStatus i d with pwq := p } := by
      by_cases issued : s.path.iwqTimer.isSome = true
      · simp only [Path.mergeStatus, State.requeued, if_pos issued]
        exact if_pos issued
      · simp only [Path.mergeStatus, State.requeued, if_neg issued]
        exact if_neg issued
    rw [merged]
    rfl
  · split <;> rfl

theorem settle_requeued (s u : State) (p : List PwqEntry) (copy : Vector Byte 28) :
    settle s (u.requeued p copy) = (settle s u).requeued p copy := by
  have status (i : Fin 7) : (u.requeued p copy).statusLine i = u.statusLine i := rfl
  have changed : changedLines s (u.requeued p copy) = changedLines s u := by simp only [changedLines, status]
  unfold settle settleWith
  rw [changed]
  change (if (s.started && u.started) = true then _ else _) = _
  split
  next started =>
    generalize changedLines s u = l
    generalize at_ : (u.requeued p copy).statusLine = f
    have : u.statusLine = f := at_ ▸ funext fun i => (status i).symm
    rw [this]
    clear at_ this changed status started
    induction l generalizing u with
    | nil => rfl
    | cons i l ih => rw [List.foldl_cons, List.foldl_cons, State.showLine_requeued, ih]
  next => rfl

theorem settle_before {s s' : State} (u : State) (started : s.started = s'.started)
    (status : ∀ i, s.statusLine i = s'.statusLine i) : settle s u = settle s' u := by
  have changed : changedLines s u = changedLines s' u := by simp only [changedLines, status]
  unfold settle settleWith
  rw [changed, started]

/-! ## An accepted WRITE (R2, R20) -/

/-- A WRITE that passes the protection check and finds room is accepted, and its lines are delivered (R2, R20, R22). -/
theorem exec_pspWrite_accepted {req : WriteReq} {s : State} (started : s.started = true)
    (unprotected : s.protectionCheck ((List.range req.lines.length).map fun i => nthLine (lineAddr req.first) i) = none)
    (room : req.lines.length ≤ s.path.pwqFree) :
    let lines := req.lines.mapIdx fun i w => (nthLine (lineAddr req.first) i, w)
    exec (.pspWrite req) s =
      commit s (lines.foldl (fun u q => u.deliverLine s.path.seq q.1 q.2) (s.accepted lines)) := by
  have check : s.protectionCheck ((addressed (lineAddr req.first) req.lines).map (·.1)) = none := by
    rw [addressed_addrs]
    exact unprotected
  have free : ¬ s.path.pwqFree < (addressed (lineAddr req.first) req.lines).length := by
    rw [addressed_length]
    exact Nat.not_lt.2 room
  show commit s (s.writeArrives (lineAddr req.first) req.lines) = _
  simp only [State.writeArrives, started, Bool.true_eq_false, if_false, check, if_neg free]
  rfl

/-- A line without a consumer changes nothing (R18, R20). -/
theorem State.deliverLine_none {s : State} {a : Addr} (seq : Nat) (w : WriteLine)
    (h : s.cfg.classOf a = .plain ∨ s.cfg.classOf a = .protect ∨
      (s.cfg.classOf a = .control ∧ ∃ base, s.cfg.control = some base ∧ base.toNat + 128 ≤ a.toNat)) :
    s.deliverLine seq a w = s := by
  obtain plain | protect | ⟨control, base, known, beyond⟩ := h
  · simp only [State.deliverLine, plain]
  · simp only [State.deliverLine, protect]
  · rw [State.deliverLine_control control]
    have index : ∃ k, indexIn s.cfg.controlWindow a = k + 2 := by
      rw [Decoder.controlWindow, known]
      exact Nat.exists_eq_add_of_le' (show 2 ≤ (a.toNat - base.toNat) / 64 by omega)
    obtain ⟨k, index⟩ := index
    rw [index]
    rfl

theorem deliverLines_none {s : State} (seq : Nat) (l : List (Addr × WriteLine))
    (h : ∀ q ∈ l, s.cfg.classOf q.1 = .plain ∨ s.cfg.classOf q.1 = .protect ∨
      (s.cfg.classOf q.1 = .control ∧ ∃ base, s.cfg.control = some base ∧ base.toNat + 128 ≤ q.1.toNat)) :
    l.foldl (fun u q => u.deliverLine seq q.1 q.2) s = s := by
  induction l with
  | nil => rfl
  | cons q l ih =>
    rw [List.foldl_cons, State.deliverLine_none seq q.2 (h q List.mem_cons_self)]
    exact ih fun r mem => h r (.tail q mem)

/-! ## The line of the ring descriptor (R155) -/

theorem mergeBytes_getElem {n : Nat} (copy : Vector Byte n) (w : WriteLine) (few : n ≤ 64) (i : Nat) (hi : i < n) :
    (mergeBytes copy 0 w)[i] = if w.en[i]'(by omega) = true then w.data[i]'(by omega) else copy[i] := by
  simp only [mergeBytes, Vector.getElem_ofFn, Nat.zero_add, vecByte, Vector.getElem?_eq_getElem (show i < 64 by omega),
    Option.getD_some]
  rfl

theorem anyEnabled_two (en : Enables) : anyEnabled en 8 2 = (en[8] || en[9]) := by
  simp [anyEnabled, List.range_succ]

theorem anyEnabled_four (en : Enables) : anyEnabled en 0 4 = (en[0] || en[1] || en[2] || en[3]) := by
  simp [anyEnabled, List.range_succ, Bool.or_assoc]

/-- The bytes of the descriptor but for the head index are merged first, and then the head index (R155). -/
theorem mergeBytes_head (desc : Vector Byte 10) (w : WriteLine) :
    mergeBytes (Vector.ofFn fun i : Fin 10 => if i.val < 8 ∧ w.en[i.val]'(by omega) = true then w.data[i.val]'(by omega) else desc[i]) 0
      (headLine (w.data[9] ++ w.data[8]) w.en[8] w.en[9]) = mergeBytes desc 0 w := by
  refine Vector.ext fun i hi => ?_
  refine (headLine_merge _ _ _ _ ⟨i, hi⟩).trans ?_
  rw [mergeBytes_getElem desc w (by decide) i hi]
  simp only [Fin.getElem_fin, Vector.getElem_ofFn]
  by_cases low : i = 8
  · subst low
    have byte : (w.data[9] ++ w.data[8]).extractLsb' 0 8 = w.data[8] := BitVec.extractLsb'_append_eq_right
    simp only [true_and]
    exact congrArg (fun b => if w.en[8] = true then b else desc[8]) byte
  · by_cases high : i = 9
    · subst high
      have byte : (w.data[9] ++ w.data[8]).extractLsb' 8 8 = w.data[9] := BitVec.extractLsb'_append_eq_left
      simp only [true_and]
      exact congrArg (fun b => if w.en[9] = true then b else desc[9]) byte
    · simp [low, high, show i < 8 by omega]

/-- A write of the head index takes its bytes and tests it (R155). -/
theorem exec_headIndexWrite (tag : Tag) (head : BitVec 16) {low high : Bool} {s : State} {base : Addr} (started : s.started = true)
    (control : s.cfg.control = some base) (fits : base.toNat + 4096 ≤ 4294967296) (room : s.path.pwq.length < 32)
    (tested : low = true ∨ high = true) :
    exec (.headIndexWrite tag head low high) s = commit s { s.accepted [(nthLine base 1, headLine head low high)] with
      notice := NoticeUnit.testHead { s.notice with desc := mergeBytes s.notice.desc 0 (headLine head low high) } } := by
  obtain ⟨class_, line⟩ := classOf_descriptor control fits
  show commit s (s.writeArrives (nthLine (s.cfg.control.getD 0) 1) [headLine head low high]) = _
  rw [control, Option.getD_some, State.writeArrives_line _ started (by rw [class_]; decide) room]
  refine congrArg (commit s) ?_
  rw [State.deliverLine_control (s := s.accepted _) class_]
  change State.deliverControl _ (indexIn s.cfg.controlWindow (nthLine base 1)) _ = _
  rw [line, State.deliverControl, State.deliverRing, headLine_tested, if_pos (by simpa using tested)]
  rfl

/-- A line of the ring descriptor tests the head index as a write of it does (R155). -/
theorem settle_headTested (s : State) (w : WriteLine) (a : Addr) (desc : Vector Byte 10) :
    let p := (s.accepted [(a, w)]).path.pwq
    let copied : State := { s with notice := { s.notice with desc := desc } }
    ∀ (v : WriteLine) (desc' : Vector Byte 10),
      settle s { s.accepted [(a, w)] with notice := NoticeUnit.testHead { s.notice with desc := desc' } } =
        State.requeued (settle copied { copied.accepted [(a, v)] with
          notice := NoticeUnit.testHead { copied.notice with desc := desc' } }) p s.cmd.copy := by
  intro p copied v desc'
  rw [← settle_requeued, settle_before (s := s) (s' := copied) _ rfl fun _ => rfl]
  rfl

/-! ## The line of the command slot (R147, R148) -/

theorem barrierFor_concat (l : List PwqEntry) {e f : PwqEntry} (addr : e.addr = f.addr) (seq : e.seq = f.seq) (a : Addr) :
    barrierFor (l ++ [e]) a = barrierFor (l ++ [f]) a := by
  simp only [barrierFor, List.filter_append]
  by_cases own : f.addr = a
  · simp [List.filter, addr, own, seq]
  · simp [List.filter, addr, own]

/-- The end of a command does not depend on the bytes of the last write that waits in the PWQ, nor on the copy (R127, R149). -/
theorem State.endWith_requeued (s : State) (l : List PwqEntry) {e f : PwqEntry} (addr : e.addr = f.addr) (seq : e.seq = f.seq)
    (copy copy' : Vector Byte 28) (end_ : CommandEnd) :
    (s.requeued (l ++ [f]) copy').endWith end_ = ((s.requeued (l ++ [e]) copy).endWith end_).requeued (l ++ [f]) copy' := by
  cases end_ with
  | result r =>
    by_cases room : s.path.iwq.length < Config.iwqSize
    · exact (endCommand_room (s := s.requeued (l ++ [f]) copy') r room).trans
        (congrArg (fun t : State => t.requeued (l ++ [f]) copy')
          (endCommand_room (s := s.requeued (l ++ [e]) copy) r room)).symm
    · exact (endCommand_full (s := s.requeued (l ++ [f]) copy') r (Nat.not_lt.1 room)).trans
        (congrArg (fun t : State => t.requeued (l ++ [f]) copy')
          (endCommand_full (s := s.requeued (l ++ [e]) copy) r (Nat.not_lt.1 room))).symm
  | scan w table =>
    have lines (a : Addr) : ownLineOf (l ++ [e]) a = ownLineOf (l ++ [f]) a := by
      simp only [ownLineOf, startState, barrierFor_concat l addr seq]
    simp only [State.endWith, State.startScanRead, State.startOwnRead, State.requeued, lines]

/-- The argument words of a slot's write stand in the copy (R148). -/
theorem slotWritten_argWord (s : State) (base : Addr) (code seq : Byte) {args : List Word} (few : args.length ≤ 3) {k : Nat} {x : Word}
    (at_ : args[k]? = some x) : (s.slotWritten base code seq args).argWord k = x := by
  match args with
  | [] => cases at_
  | [a] =>
    match k with
    | 0 => exact (slotWritten_arg s base code seq a 0 0).1.trans (Option.some_inj.1 at_)
  | [a, b] =>
    obtain ⟨-, first, second, -⟩ := slotWritten_arg s base code seq a b 0
    match k with
    | 0 => exact first.trans (Option.some_inj.1 at_)
    | 1 => exact second.trans (Option.some_inj.1 at_)
  | [a, b, c] =>
    obtain ⟨-, -, -, first, second, third⟩ := slotWritten_arg s base code seq a b c
    match k with
    | 0 => exact first.trans (Option.some_inj.1 at_)
    | 1 => exact second.trans (Option.some_inj.1 at_)
    | 2 => exact third.trans (Option.some_inj.1 at_)
  | _ :: _ :: _ :: _ :: _ => exact absurd few (by simp)

/-- A command's write holds as many argument words as its code takes (R148). -/
theorem slotCommand_argCount {c : Instr} {code seq : Byte} {args : List Word} (h : slotCommand c = some (code, seq, args))
    (unknown : ∀ tag seq code, c = .unknownCommand tag seq code → 17 < code.toNat) :
    argCount code.toNat = args.length ∧ args.length ≤ 3 := by
  cases c with
  | unknownCommand tag seq' code' =>
    obtain ⟨rfl, rfl, rfl⟩ : code' = code ∧ seq' = seq ∧ [] = args := by simpa [slotCommand] using h
    obtain ⟨n, large⟩ := Nat.exists_eq_add_of_le' (unknown tag seq' code' rfl)
    rw [large]
    exact ⟨rfl, by decide⟩
  | _ =>
    simp only [slotCommand, Option.some.injEq, Prod.mk.injEq, reduceCtorEq] at h <;>
      (obtain ⟨rfl, rfl, rfl⟩ := h; exact ⟨rfl, by simp⟩)

/-- A command that starts from a line of the slot does what it does from a write of the whole slot, if the copy holds its
words (R147). -/
theorem State.startCommand_requeued (s : State) {code : Nat} {l : List PwqEntry} {e f : PwqEntry} (queue : s.path.pwq = l ++ [e])
    (addr : e.addr = f.addr) (seq : e.seq = f.seq) (copy : Vector Byte 28)
    (words : ∀ k < argCount code, field32 (vecByte copy) (4 + 4 * k) = s.argWord k) :
    (s.requeued (l ++ [f]) copy).startCommand code = (s.startCommand code).requeued (l ++ [f]) copy := by
  obtain ⟨u, end_, -, ends⟩ := s.startCommand_ends code
  have whole := ends s.path s.cmd.copy fun k _ => s.withSlot_argWord s.path k
  rw [State.withSlot_self, show s.path = { s.path with pwq := l ++ [e] } by rw [← queue]] at whole
  rw [whole]
  exact (ends { s.path with pwq := l ++ [f] } copy words).trans
    (State.endWith_requeued (u.withSlot s.path s.cmd.copy) l addr seq s.cmd.copy copy end_)

theorem field32_toNat (b : Nat → Byte) (o : Nat) : (field32 b o).toNat = number4 b o := by
  have halves : field32 b o = field16 b (o + 2) ++ field16 b o := by
    simp only [field32, field16]
    exact BitVec.append_assoc
  have low := (field16 b o).isLt
  rw [halves, BitVec.toNat_append, ← Nat.shiftLeft_add_eq_or_of_lt low, Nat.shiftLeft_eq, field16_toNat, field16_toNat, number4]
  omega

theorem commit_slotCopied (s : State) (l : List (Addr × WriteLine)) (copy : Vector Byte 28) :
    commit s { s.accepted l with cmd := { s.cmd with copy := copy } } =
      .next { s.accepted l with cmd := { s.cmd with copy := copy } } := commit_of_same fun _ => rfl

/-- A command that the line of an IDLE slot starts (R147). -/
theorem exec_slotCommand_line {c : Instr} {s : State} {base : Addr} {copy : Vector Byte 28} {args : List Word} (w : WriteLine)
    (started : s.started = true) (control : s.cfg.control = some base) (room : s.path.pwq.length < 32)
    (idle : s.cmd.executing = false) (hc : copy[0] ≠ 0) (command : slotCommand c = some (copy[0], copy[1], args))
    (unknown : ∀ tag seq code, c = .unknownCommand tag seq code → 17 < code.toNat)
    (words : ∀ (k : Nat) (a : Word), args[k]? = some a → a.toNat = number4 (vecByte copy) (4 + 4 * k)) :
    ∃ t, exec c s = .next t ∧
      commit s (State.actOnWord { s.accepted [(base, w)] with cmd := { s.cmd with copy := copy } }) =
        .next (t.requeued (s.accepted [(base, w)]).path.pwq copy) := by
  have whole : exec c s = commit s ((s.slotWritten base copy[0] copy[1] args).startCommand copy[0].toNat) := by
    rw [exec_slotCommand command s, commandWrite_idle (code := copy[0]) (seq := copy[1]) (args := args) started control room idle hc]
  refine ⟨_, whole, ?_⟩
  obtain ⟨count, few⟩ := slotCommand_argCount command unknown
  let f : PwqEntry := { addr := base, data := w.data, en := w.en, seq := s.path.seq }
  have starts : State.actOnWord { s.accepted [(base, w)] with cmd := { s.cmd with copy := copy } } =
      ((s.slotWritten base copy[0] copy[1] args).requeued (s.path.pwq ++ [f]) copy).startCommand copy[0].toNat := by
    have code : vecByte copy 0 = copy[0] := vecByte_of_lt copy (by decide)
    have seq : vecByte copy 1 = copy[1] := vecByte_of_lt copy (by decide)
    rw [State.actOnWord]
    simp only [code, seq, hc, if_false, idle, Bool.false_eq_true]
    refine congrArg (fun t : State => t.startCommand copy[0].toNat) ?_
    simp only [State.slotWritten, State.requeued, State.accepted, List.map_cons, List.map_nil, f]
  let e : PwqEntry := { addr := base, data := (slotLine copy[0] copy[1] args).data, en := (slotLine copy[0] copy[1] args).en
                        seq := s.path.seq }
  have queue : (s.slotWritten base copy[0] copy[1] args).path.pwq = s.path.pwq ++ [e] := by simp only [State.slotWritten, e]
  have held (k : Nat) (small : k < argCount copy[0].toNat) :
      field32 (vecByte copy) (4 + 4 * k) = (s.slotWritten base copy[0] copy[1] args).argWord k := by
    have inside : k < args.length := count ▸ small
    rw [slotWritten_argWord s base copy[0] copy[1] few (List.getElem?_eq_getElem inside)]
    exact BitVec.eq_of_toNat_eq ((field32_toNat ..).trans (words k _ (List.getElem?_eq_getElem inside)).symm)
  rw [starts, State.startCommand_requeued (s.slotWritten base copy[0] copy[1] args) (f := f) queue rfl rfl copy held, commit,
    settle_requeued]
  rfl

/-! ## The statement (R2, R18, R20, R147, R155) -/

theorem State.requeued_of_copy {t : State} {copy : Vector Byte 28} (h : t.cmd.copy = copy) (p : List PwqEntry) :
    t.requeued p copy = { t with path := { t.path with pwq := p } } := by
  rw [← h]
  rfl

theorem mergeBytes_ofFn {n : Nat} (copy : Vector Byte n) (w : WriteLine) (few : n ≤ 64) : mergeBytes copy 0 w =
    Vector.ofFn fun i : Fin n => if w.en[i.val]'(by omega) = true then w.data[i.val]'(by omega) else copy[i] :=
  Vector.ext fun i hi => by
    rw [mergeBytes_getElem copy w few i hi, Vector.getElem_ofFn]
    rfl

/-- The line of the ring descriptor (R155). -/
theorem State.deliverLine_descriptor {s : State} {base : Addr} (control : s.cfg.control = some base)
    (fits : base.toNat + 4096 ≤ 4294967296) (seq : Nat) (w : WriteLine) :
    s.deliverLine seq (nthLine base 1) w = { s with notice :=
      if (w.en[8] || w.en[9]) = true then NoticeUnit.testHead { s.notice with desc := mergeBytes s.notice.desc 0 w }
      else { s.notice with desc := mergeBytes s.notice.desc 0 w } } := by
  obtain ⟨class_, line⟩ := classOf_descriptor control fits
  rw [State.deliverLine_control class_, line, State.deliverControl, State.deliverRing, ← anyEnabled_two]

/-- The line of the command slot (R147). -/
theorem State.deliverLine_slot {s : State} {base : Addr} (control : s.cfg.control = some base) (seq : Nat) (w : WriteLine) :
    s.deliverLine seq base w =
      if (w.en[0] || w.en[1] || w.en[2] || w.en[3]) = true then
        State.actOnWord { s with cmd := { s.cmd with copy := mergeBytes s.cmd.copy 0 w } }
      else { s with cmd := { s.cmd with copy := mergeBytes s.cmd.copy 0 w } } := by
  rw [State.deliverLine_of_slot (classOf_base control), State.deliverSlot, ← anyEnabled_four]

/-- Settles O14: the deliveries line by line, and for a write of one line what each line of the control block does. -/
theorem writeAccepted : Obligations.WriteAccepted := by
  intro req s started unprotected room lines accepted
  have run : exec (.pspWrite req) s = commit s (lines.foldl (fun u q => u.deliverLine s.path.seq q.1 q.2) accepted) :=
    exec_pspWrite_accepted started unprotected room
  obtain ⟨same, -⟩ := settle_follows s (lines.foldl (fun u q => u.deliverLine s.path.seq q.1 q.2) accepted)
  refine ⟨⟨_, run, ?_⟩, runsTo_commit run, fun none_ => ?_, fun w base one control fits => ?_⟩
  · obtain ⟨-, port, loader, time, cfg, levels⟩ := accepted.deliverLines_frame s.path.seq lines
    have path := deliverLines_path s.path.seq lines accepted
    dsimp only at path
    generalize lines.foldl (fun u q => u.deliverLine s.path.seq q.1 q.2) accepted = x at same port loader time cfg levels path
    have queue : accepted.path.pwq = s.path.pwq ++ req.lines.mapIdx fun i w =>
        { addr := nthLine (lineAddr req.first) i, data := w.data, en := w.en, seq := s.path.seq } := by
      refine congrArg (s.path.pwq ++ ·) (List.ext_getElem ?_ ?_) <;> simp [lines]
    rw [same, ← queue]
    exact ⟨port, congrArg (fun p : Path => { p with iwq := (settle s x).path.iwq }) path, loader, time, cfg, levels⟩
  · have quiet : lines.foldl (fun u q => u.deliverLine s.path.seq q.1 q.2) accepted = accepted := deliverLines_none _ lines none_
    rw [run, quiet]
    exact commit_of_same fun _ => rfl
  have free : s.path.pwq.length < 32 := by
    rw [one] at room
    simp only [List.length_singleton, Path.pwqFree, Config.pwqSize] at room
    omega
  have lines_eq : lines = [(lineAddr req.first, w)] := by simp [lines, one]
  have accepted_eq : accepted = s.accepted [(lineAddr req.first, w)] := congrArg s.accepted lines_eq
  have run : exec (.pspWrite req) s = commit s (accepted.deliverLine s.path.seq (lineAddr req.first) w) := by
    rw [run, lines_eq]
    rfl
  constructor
  · intro second copied
    have run : exec (.pspWrite req) s = commit s (accepted.deliverLine s.path.seq (nthLine base 1) w) := by
      rw [run, second]
      rfl
    rw [run, State.deliverLine_descriptor (s := accepted) control fits]
    refine ⟨fun low high => ?_, fun tested => ?_⟩
    · have desc : mergeBytes s.notice.desc 0 w = (copied 8).desc := Vector.ext fun i hi => by
        rw [mergeBytes_getElem s.notice.desc w (by decide) i hi, Vector.getElem_ofFn]
        obtain rfl | rfl | below : i = 8 ∨ i = 9 ∨ i < 8 := by omega
        · simp [low]
        · simp [high]
        · simp [below]
      have copied_eq : ({ accepted.notice with desc := mergeBytes accepted.notice.desc 0 w } : NoticeUnit) = copied 8 :=
        congrArg (fun d => { s.notice with desc := d }) desc
      rw [low, high, copied_eq]
      exact commit_of_same fun _ => rfl
    · let h := headLine (w.data[9] ++ w.data[8]) w.en[8] w.en[9]
      let s' : State := { s with notice := copied 8 }
      have merged : mergeBytes s'.notice.desc 0 h = mergeBytes s.notice.desc 0 w := mergeBytes_head s.notice.desc w
      have test : exec (.headIndexWrite req.tag (w.data[9] ++ w.data[8]) w.en[8] w.en[9]) s' =
          commit s' { s'.accepted [(nthLine base 1, h)] with
            notice := NoticeUnit.testHead { s'.notice with desc := mergeBytes s'.notice.desc 0 h } } :=
        exec_headIndexWrite req.tag _ (s := s') started control fits free tested
      rw [merged] at test
      have place : accepted = s.accepted [(nthLine base 1, w)] := accepted_eq.trans (by rw [second]; rfl)
      refine ⟨_, test, ?_⟩
      rw [if_pos (by simpa using tested), place]
      refine congrArg Host.Outcome.next
        ((settle_headTested s w (nthLine base 1) (copied 8).desc h (mergeBytes s.notice.desc 0 w)).trans ?_)
      exact State.requeued_of_copy (by rw [(settle_follows _ _).1]; rfl) _
  · intro first copy written
    have merged : mergeBytes s.cmd.copy 0 w = copy := mergeBytes_ofFn s.cmd.copy w (by decide)
    have run : exec (.pspWrite req) s = commit s (
        if (w.en[0] || w.en[1] || w.en[2] || w.en[3]) = true then State.actOnWord { accepted with cmd := { s.cmd with copy := copy } }
        else { accepted with cmd := { s.cmd with copy := copy } }) := by
      rw [run, first, State.deliverLine_slot (s := accepted) control, ← merged]
      rfl
    have code : vecByte copy 0 = copy[0] := vecByte_of_lt copy (by decide)
    have written_iff : (w.en[0] || w.en[1] || w.en[2] || w.en[3]) = true ↔ written := by simp [written, or_assoc]
    refine ⟨fun quiet => ?_, fun written_ known busy => ?_, fun written_ known idle c args command unknown words => ?_⟩
    · rw [run]
      split
      next enabled =>
        have none_ : vecByte copy 0 = 0 := code.trans (quiet.resolve_left (not_not.2 (written_iff.1 enabled)))
        rw [State.actOnWord, if_pos none_]
        exact commit_slotCopied s lines copy
      next => exact commit_slotCopied s lines copy
    · refine runsTo_commit ?_
      rw [run, if_pos (written_iff.2 written_), State.actOnWord]
      simp only [code, known, if_false, accepted, busy, if_true]
      rfl
    · rw [run, if_pos (written_iff.2 written_), accepted_eq, first]
      exact exec_slotCommand_line w started control free idle known command unknown words

end Sys2Proof.Machine

/-! SUPPORT. The end of ROM loading, and what CHECK leaves of the staged contents (R161 to R163). -/

namespace Sys2Proof.Machine

open Sys2Proof

set_option Elab.async false

/-! ## The end of loading (R161, R163) -/

theorem signatureGood_iff (b : Byte) : signatureGood b = true ↔ b.extractLsb' 6 2 = 2#2 := beq_iff_eq

theorem romLength_eq (rom : List Byte) : romLength rom = number2 (romByte rom) 1 := field16_toNat ..

/-- The start-up tests, in their order (R163). -/
theorem startReason_cases (rom : List Byte) :
    (signatureGood (romByte rom 0) = false ∧ startReason rom = .signature) ∨
    (signatureGood (romByte rom 0) = true ∧ romSum rom ≠ romStoredSum rom ∧ startReason rom = .sum) ∨
    (signatureGood (romByte rom 0) = true ∧ romSum rom = romStoredSum rom ∧ (loadRecords rom).malformed = true ∧
      startReason rom = .format) ∨
    (signatureGood (romByte rom 0) = true ∧ romSum rom = romStoredSum rom ∧ (loadRecords rom).malformed = false ∧
      startReason rom = .none) := by
  unfold startReason
  split
  next bad => exact .inl ⟨bad, rfl⟩
  next good =>
    have good := Bool.not_eq_false _ ▸ good
    split
    next differs => exact .inr (.inl ⟨good, differs, rfl⟩)
    next same =>
      have same := not_not.1 same
      split
      next malformed => exact .inr (.inr (.inl ⟨good, same, malformed, rfl⟩))
      next formed => exact .inr (.inr (.inr ⟨good, same, Bool.not_eq_true _ ▸ formed, rfl⟩))

/-- The loader after the end of loading (R161 to R163). -/
def State.loadedWith (s : State) (rom : List Byte) (reason : StartReason) : Loader :=
  let loaded := if reason = .signature then {} else loadRecords rom
  let check := checkContents s.loader.controlBase loaded.staging
  let good := decide (reason = .none)
  { s.loader with
    phase := .check
    staging := loaded.staging
    runningSum := if reason = .signature then (romByte rom 0).setWidth 16 else romSum rom
    storedSum := if reason = .signature then 0 else romStoredSum rom
    result := { s.loader.result with
      degraded := !good, reason := reason
      clamped := good && check.clamped, overlap := good && check.overlap, skipped := loaded.skipped }
    checked := if good then some check.contents else none }

theorem exec_romLoadEnd {s : State} (rom : List Byte) (load : s.loader.phase = .load) :
    exec (.romLoadEnd rom) s = .next { s with loader := s.loadedWith rom (startReason rom) } := by
  have unstarted : s.started = false := by rw [State.started, load]; rfl
  show commit s (s.romLoaded rom) = _
  rw [commit_unstarted _ unstarted, State.romLoaded, if_pos load]
  rfl

/-! ## What CHECK leaves, block by block (R163) -/

theorem checkTag_beyond (screens : Nat) {body : List Byte} {i : Nat} (h : body.length ≤ 2 * i) :
    checkTag screens body i = { value := .general, clamped := false } := if_pos h

theorem checkTable_value (protect : Option Window) (screens : Nat) (base : Addr) :
    (screens = 0 ∨ insideStore protect base (screens * 4096) = true → (checkTable protect screens base).value = some base) ∧
    (¬ (screens = 0 ∨ insideStore protect base (screens * 4096) = true) → (checkTable protect screens base).value = none) ∧
    ((checkTable protect screens base).clamped = true ↔ (checkTable protect screens base).value = none) := by
  unfold checkTable
  split
  next inside => exact ⟨fun _ => rfl, fun h => absurd inside h, nofun, nofun⟩
  next outside => exact ⟨fun h => absurd h outside, fun _ => rfl, fun _ => rfl, fun _ => rfl⟩

/-- The cabin count in range, if its record is staged (R132, R163). -/
def cabinsOf (staging : List (Nat × List Byte)) : Option (Checked Nat) :=
  (stagedOf staging 10).map fun l => clampTo 1 512 (field16 (listByte l) 0).toNat

/-- The windows of the staged records with a cabin count (R16, R163). -/
def windowsFor (control : Addr) (staging : List (Nat × List Byte)) (cabins : Option Nat) : WindowCheck :=
  match stagedOf staging 1 with
  | some l => checkWindows control l cabins
  | none => {}

/-- The windows of the staged records (R16, R163). -/
def windowsOf (control : Addr) (staging : List (Nat × List Byte)) : WindowCheck :=
  windowsFor control staging ((cabinsOf staging).map Checked.value)

/-- The body of a staged record, or none (R163). -/
def bodyOf (staging : List (Nat × List Byte)) (type : Nat) : List Byte := (stagedOf staging type).getD []

/-- The tag class table as CHECK reads it (R19). -/
def tagsOf (screens : Nat) (staging : List (Nat × List Byte)) : List (Checked TagClass) :=
  (List.finRange 64).map fun i => checkTag screens (bodyOf staging 2) i.val

/-- The screen records as CHECK reads them (R30). -/
def screensOf (staging : List (Nat × List Byte)) : List (Checked (ScreenConf × Nat)) :=
  (List.range (listByte (bodyOf staging 3) 0).toNat).map fun i =>
    checkScreen fun j => listByte (bodyOf staging 3) (1 + 64 * i + j)

/-- The station table as CHECK reads it, if it is staged (R72). -/
def stationsOf (staging : List (Nat × List Byte)) : Option (List (Checked Station)) :=
  (stagedOf staging 5).map fun l => (List.finRange 12).map fun i => checkStation (listByte l) i.val

/-- The stations that CHECK leaves (R72, R163). -/
def stationTableOf (staging : List (Nat × List Byte)) : Vector Station 12 :=
  match stagedOf staging 5 with
  | some l => Vector.ofFn fun i => (checkStation (listByte l) i.val).value
  | none => Vector.replicate 12 {}

/-- The page table as CHECK reads it (R80). -/
def pagesOf (protect : Option Window) (staging : List (Nat × List Byte)) : List (Checked (Option Page)) :=
  (List.range 144).map fun i =>
    match stagedOf staging 6 with
    | some l => checkPage protect (listByte l) i
    | none => { value := none }

/-- The number of segments, cut off at 256 (R86). -/
def segmentCountOf (staging : List (Nat × List Byte)) : Checked Nat :=
  clampTo 0 256 (field16 (listByte (bodyOf staging 7)) 0).toNat

/-- The segments as CHECK reads them (R86). -/
def segmentsOf (staging : List (Nat × List Byte)) : List (Checked Segment) :=
  (List.range (segmentCountOf staging).value).map fun i => checkSegment (listByte (bodyOf staging 7)) i

/-- The route table base as CHECK reads it (R93). -/
def tableOf (protect : Option Window) (screens : Nat) (staging : List (Nat × List Byte)) : Checked (Option Addr) :=
  match stagedOf staging 10 with
  | some l => checkTable protect screens (alignLine (field32 (listByte l) 2))
  | none => { value := none }

/-- The timing values as CHECK reads them, or the default ones (R163). -/
def timingOf (staging : List (Nat × List Byte)) : Checked Timing :=
  match stagedOf staging 8 with
  | some l => checkTiming (listByte l)
  | none => { value := {} }

/-- The notice ring as CHECK reads it, or the default one (R163). -/
def ringOf (control : Addr) (staging : List (Nat × List Byte)) : Checked RingConf :=
  match stagedOf staging 9 with
  | some l => checkRing control (listByte l)
  | none => { value := defaultRing control }

/-- CHECK puts the blocks together, and what is noted of them (R163). -/
theorem checkContents_eq (control : Addr) (staging : List (Nat × List Byte)) :
    let w := windowsOf control staging
    let screens := screensOf staging
    let table := tableOf w.protect screens.length staging
    checkContents control staging =
      { contents :=
          { protect := w.protect, programme := w.programme, segment := w.segment, cabin := w.cabin
            tags := Vector.ofFn fun i => (checkTag screens.length (bodyOf staging 2) i.val).value
            screens := screens.map Checked.value
            glyphs := Vector.ofFn fun i => readGlyph (listByte (bodyOf staging 4)) i.val
            stations := stationTableOf staging
            pages := (pagesOf w.protect staging).map Checked.value
            segments := (segmentsOf staging).map Checked.value
            tableBase := table.value
            cabinCount := if w.cabin.isSome then ((cabinsOf staging).map Checked.value).getD 0 else 0
            timing := (timingOf staging).value
            ring := (ringOf control staging).value }
        clamped := w.clamped || (tagsOf screens.length staging).any Checked.clamped || screens.any Checked.clamped ||
          ((stationsOf staging).getD []).any Checked.clamped || (pagesOf w.protect staging).any Checked.clamped ||
          (segmentCountOf staging).clamped || (segmentsOf staging).any Checked.clamped || table.clamped ||
          (cabinsOf staging).any Checked.clamped ||
          (timingOf staging).clamped || (ringOf control staging).clamped
        overlap := w.overlap } := rfl

theorem stationTableOf_getElem (staging : List (Nat × List Byte)) (i : StationIx) :
    (stagedOf staging 5 = none → (stationTableOf staging)[i] = {}) ∧
    (stagedOf staging 5 ≠ none → (stationTableOf staging)[i] = (checkStation (listByte (bodyOf staging 5)) i.val).value) := by
  unfold stationTableOf bodyOf
  cases stagedOf staging 5 with
  | none => exact ⟨fun _ => Vector.getElem_replicate _, fun h => absurd rfl h⟩
  | some l => exact ⟨nofun, fun _ => Vector.getElem_ofFn _⟩

theorem pagesOf_value (protect : Option Window) (staging : List (Nat × List Byte)) :
    (pagesOf protect staging).map Checked.value = (List.range 144).map fun i =>
      if stagedOf staging 6 = none then none else (checkPage protect (listByte (bodyOf staging 6)) i).value := by
  unfold pagesOf bodyOf
  rw [List.map_map]
  cases stagedOf staging 6 <;> rfl

theorem segmentCountOf_value (staging : List (Nat × List Byte)) :
    (segmentCountOf staging).value = min 256 (field16 (listByte (bodyOf staging 7)) 0).toNat := by
  rw [segmentCountOf, clampTo_value (by decide), Nat.zero_max]

theorem tableOf_value (protect : Option Window) (screens : Nat) (staging : List (Nat × List Byte)) :
    let base := alignLine (field32 (listByte (bodyOf staging 10)) 2)
    let inside := screens = 0 ∨ insideStore protect base (screens * 4096) = true
    (stagedOf staging 10 ≠ none → inside → (tableOf protect screens staging).value = some base) ∧
    (stagedOf staging 10 = none ∨ ¬ inside → (tableOf protect screens staging).value = none) ∧
    ((tableOf protect screens staging).clamped = true ↔
      stagedOf staging 10 ≠ none ∧ (tableOf protect screens staging).value = none) := by
  unfold tableOf bodyOf
  cases stagedOf staging 10 with
  | none => exact ⟨fun h => absurd rfl h, fun _ => rfl, nofun, fun h => absurd rfl h.1⟩
  | some l =>
    obtain ⟨kept, lost, clamped⟩ := checkTable_value protect screens (alignLine (field32 (listByte l) 2))
    exact ⟨fun _ => kept, fun h => lost (h.resolve_left nofun), clamped.trans ⟨fun h => ⟨nofun, h⟩, And.right⟩⟩

theorem timingOf_value (staging : List (Nat × List Byte)) :
    (stagedOf staging 8 = none → (timingOf staging).value = {}) ∧
    (stagedOf staging 8 ≠ none → (timingOf staging).value = (checkTiming (listByte (bodyOf staging 8))).value) ∧
    ((timingOf staging).clamped = true ↔
      stagedOf staging 8 ≠ none ∧ (checkTiming (listByte (bodyOf staging 8))).clamped = true) := by
  unfold timingOf bodyOf
  cases stagedOf staging 8 with
  | none => exact ⟨fun _ => rfl, fun h => absurd rfl h, nofun, fun h => absurd rfl h.1⟩
  | some l => exact ⟨nofun, fun _ => rfl, fun h => ⟨nofun, h⟩, And.right⟩

theorem ringOf_value (control : Addr) (staging : List (Nat × List Byte)) :
    (stagedOf staging 9 = none → (ringOf control staging).value = defaultRing control) ∧
    (stagedOf staging 9 ≠ none → (ringOf control staging).value = (checkRing control (listByte (bodyOf staging 9))).value) ∧
    ((ringOf control staging).clamped = true ↔
      stagedOf staging 9 ≠ none ∧ (checkRing control (listByte (bodyOf staging 9))).clamped = true) := by
  unfold ringOf bodyOf
  cases stagedOf staging 9 with
  | none => exact ⟨fun _ => rfl, fun h => absurd rfl h, nofun, fun h => absurd rfl h.1⟩
  | some l => exact ⟨nofun, fun _ => rfl, fun h => ⟨nofun, h⟩, And.right⟩

/-! ## What is noted CLAMPED (R163) -/

theorem any_range_map {α : Type} (n : Nat) (f : Nat → Checked α) :
    ((List.range n).map f).any Checked.clamped = true ↔ ∃ i < n, (f i).clamped = true := by
  simp

theorem tagsOf_clamped (screens : Nat) (staging : List (Nat × List Byte)) :
    (tagsOf screens staging).any Checked.clamped = true ↔ ∃ i < 64, (checkTag screens (bodyOf staging 2) i).clamped = true := by
  simp [tagsOf, Fin.exists_iff]

theorem stationsOf_clamped (staging : List (Nat × List Byte)) :
    ((stationsOf staging).getD []).any Checked.clamped = true ↔
      stagedOf staging 5 ≠ none ∧ ∃ i < 12, (checkStation (listByte (bodyOf staging 5)) i).clamped = true := by
  unfold stationsOf bodyOf
  cases stagedOf staging 5 with
  | none => simp
  | some l => simp [Fin.exists_iff]

theorem pagesOf_clamped (protect : Option Window) (staging : List (Nat × List Byte)) :
    (pagesOf protect staging).any Checked.clamped = true ↔
      stagedOf staging 6 ≠ none ∧ ∃ i < 144, (checkPage protect (listByte (bodyOf staging 6)) i).clamped = true := by
  unfold pagesOf bodyOf
  rw [any_range_map]
  cases stagedOf staging 6 with
  | none => exact ⟨nofun, fun h => absurd rfl h.1⟩
  | some l => exact ⟨fun h => ⟨nofun, h⟩, And.right⟩

theorem cabinsOf_any_clamped (staging : List (Nat × List Byte)) :
    (cabinsOf staging).any Checked.clamped = true ↔ stagedOf staging 10 ≠ none ∧
      ((field16 (listByte (bodyOf staging 10)) 0).toNat < 1 ∨ 512 < (field16 (listByte (bodyOf staging 10)) 0).toNat) := by
  unfold cabinsOf bodyOf
  cases stagedOf staging 10 with
  | none => exact ⟨nofun, fun h => absurd rfl h.1⟩
  | some l => exact clampTo_clamped.trans ⟨fun h => ⟨nofun, h⟩, And.right⟩

/-- What CHECK leaves (R163). -/
theorem checkContents_checked (control : Addr) (staging : List (Nat × List Byte)) :
    ContentsChecked control staging (checkContents control staging) := by
  rw [checkContents_eq]
  unfold ContentsChecked
  intro c body tagBody count cabins windows tag screen table tableInside segments
  have cabins_eq : cabins = (cabinsOf staging).map Checked.value := by
    simp only [cabins, cabinsOf, Option.map_map, count, body]
    cases stagedOf staging 10 with
    | none => rfl
    | some l => exact congrArg some (clampTo_value (by decide)).symm
  have windows_eq : windows = windowsOf control staging := congrArg (windowsFor control staging) cabins_eq
  have screens_length : c.screens.length = (screensOf staging).length := List.length_map _
  have tag_eq (i : Nat) : tag i = checkTag (screensOf staging).length (bodyOf staging 2) i :=
    congrArg (fun n => checkTag n tagBody i) screens_length
  obtain ⟨tableKept, tableLost, tableClamped⟩ := tableOf_value c.protect (screensOf staging).length staging
  obtain ⟨timingNone, timing, timingClamped⟩ := timingOf_value staging
  obtain ⟨ringNone, ring, ringClamped⟩ := ringOf_value control staging
  have inside_iff : insideStore c.protect table ((screensOf staging).length * 4096) = true ↔ tableInside := by
    rw [insideStore_iff, ← screens_length]
  have kept_iff : c.screens.length = 0 ∨ tableInside ↔
      (screensOf staging).length = 0 ∨ insideStore c.protect table ((screensOf staging).length * 4096) = true := by
    rw [inside_iff, screens_length]
  refine ⟨fun l staged => ?_, congrArg WindowCheck.protect windows_eq.symm, congrArg WindowCheck.programme windows_eq.symm,
    congrArg WindowCheck.segment windows_eq.symm, congrArg WindowCheck.cabin windows_eq.symm,
    fun i => ?_, fun i => checkTag_checked, fun i => checkTag_beyond _, List.map_map,
    fun i => checkScreen_checked _, fun i => Vector.getElem_ofFn _, fun missing i => (stationTableOf_getElem staging i).1 missing,
    fun staged i => (stationTableOf_getElem staging i).2 staged, checkStation_checked _, pagesOf_value c.protect staging,
    checkPage_checked _ _, ?_, checkSegment_checked _, fun staged inside => tableKept staged (kept_iff.1 inside),
    fun h => tableLost (h.imp_right fun outside inside => ?_), ?_, timingNone, timing, checkTiming_checked _,
    ringNone, ring, checkRing_checked control _, congrArg WindowCheck.overlap windows_eq.symm, ?_⟩
  · rw [windows_eq, windowsOf, windowsFor, staged, cabins_eq]
    exact checkWindows_checked control l _
  · rw [tag_eq]
    exact Vector.getElem_ofFn _
  · show (segmentsOf staging).map Checked.value = _
    rw [segmentsOf, segmentCountOf_value, List.map_map]
    rfl
  · obtain ⟨some_, none_⟩ := outside
    exact (kept_iff.2 inside).elim some_ none_
  · show (if (windowsOf control staging).cabin.isSome = true then _ else 0) = if (windowsOf control staging).cabin = none then 0 else _
    rw [cabins_eq]
    cases (windowsOf control staging).cabin <;> rfl
  · simp only [Bool.or_eq_true, or_assoc]
    refine or_congr (by rw [windows_eq]) (or_congr ?_ (or_congr ?_ (or_congr (stationsOf_clamped staging)
      (or_congr (pagesOf_clamped c.protect staging) (or_congr ?_ (or_congr ?_ ?_))))))
    · simp only [tag_eq]
      exact tagsOf_clamped _ staging
    · rw [screens_length, screensOf, List.length_map, List.length_range]
      exact any_range_map _ _
    · exact clampTo_clamped.trans (or_iff_right (Nat.not_lt_zero _))
    · have length : c.segments.length = (segmentCountOf staging).value := by
        show ((segmentsOf staging).map Checked.value).length = _
        rw [List.length_map, segmentsOf, List.length_map, List.length_range]
      rw [length]
      exact any_range_map _ _
    · have tableBase : c.tableBase = (tableOf c.protect (screensOf staging).length staging).value := rfl
      rw [← or_assoc]
      refine or_congr ?_ (or_congr timingClamped ringClamped)
      rw [tableBase, cabinsOf_any_clamped]
      refine (or_congr_left tableClamped).trans ?_
      rw [← and_or_left, or_comm, or_assoc]
      rfl

/-- Settles O59: the outcome by the tests in their order, and CHECK block by block. -/
theorem romLoadDecides : Obligations.RomLoadDecides := by
  refine ⟨fun s rom load => ?_, checkContents_checked⟩
  intro signature sum size format
  have size_eq : romLength rom = size := romLength_eq rom
  have bytes (i : Nat) (inside : i < rom.length) : some (romByte rom i) = rom[i]? := by
    rw [romByte, if_pos inside, listByte, List.getD_eq_getElem?_getD, List.getElem?_eq_getElem inside, Option.getD_some]
  have running : (romSum rom).toNat = ((List.range (3 + size)).map fun i => (romByte rom i).toNat).sum % 65536 := by
    rw [romSum_toNat, size_eq]
  have stored : (romStoredSum rom).toNat = number2 (romByte rom) (3 + size) := by
    rw [romStoredSum, field16_toNat, size_eq]
  have records : RecordsStaged ((List.range size).map fun i => romByte rom (3 + i)) {} (loadRecords rom) := by
    rw [← size_eq]
    exact stageRecords_staged _ _ _ (by simp)
  refine ⟨_, exec_romLoadEnd rom load, rfl, ?_⟩
  obtain ⟨bad, reason⟩ | ⟨good, differs, reason⟩ | ⟨good, same, malformed, reason⟩ | ⟨good, same, formed, reason⟩ :=
    startReason_cases rom
  · have bad : ¬ signature := fun h => absurd ((signatureGood_iff _).2 h) (by rw [bad]; nofun)
    rw [reason]
    exact ⟨fun _ => ⟨rfl, rfl⟩, fun h => absurd h bad, fun h => absurd h bad, fun h => absurd h bad,
      fun _ => ⟨rfl, rfl, rfl, rfl⟩, fun h => absurd h bad, bytes, running, stored, records, fun h => absurd h bad, rfl, rfl⟩
  · have good : signature := (signatureGood_iff _).1 good
    rw [reason]
    exact ⟨fun h => absurd good h, fun _ _ => rfl, fun _ h => absurd h differs, fun _ => ⟨rfl, rfl⟩,
      fun _ => ⟨rfl, rfl, rfl, rfl⟩, fun _ h => absurd h differs, bytes, running, stored, records, fun _ => ⟨rfl, rfl⟩, rfl, rfl⟩
  · have good : signature := (signatureGood_iff _).1 good
    have bad : ¬ format := fun h => absurd (malformed.symm.trans h) nofun
    rw [reason]
    exact ⟨fun h => absurd good h, fun _ h => absurd same h, fun _ _ _ => rfl, fun _ => ⟨rfl, rfl⟩, fun _ => ⟨rfl, rfl, rfl, rfl⟩,
      fun _ _ h => absurd h bad, bytes, running, stored, records, fun _ => ⟨rfl, rfl⟩, rfl, rfl⟩
  · have good : signature := (signatureGood_iff _).1 good
    rw [reason]
    exact ⟨fun h => absurd good h, fun _ h => absurd same h, fun _ _ h => absurd formed h, fun _ => ⟨rfl, rfl⟩,
      fun h => (h.elim (absurd good) fun h => h.elim (absurd same) (absurd formed)), fun _ _ _ => ⟨rfl, rfl, rfl, rfl, rfl⟩,
      bytes, running, stored, records, fun _ => ⟨rfl, rfl⟩, rfl, rfl⟩

end Sys2Proof.Machine
